-- ==== Sys2Proof/Word.lean ====
section
/-! DEFINITION. The word types of the block: a lane, a byte, a frame, and the twelve-lane and four-lane vectors the
primitives work on (00_scope.md R6, R9, R16). -/

namespace Sys2Proof

/-- A lane, a seed, half of a digest: 64 bits, arithmetic modulo 2^64 (R6, R9). -/
abbrev Word := BitVec 64

/-- A byte: 8 bits (R6). -/
abbrev Byte := BitVec 8

/-- A frame on the command port or the response port: its bytes, first byte first (R8, R60). -/
abbrev Frame := List Byte

/-- Twelve lanes, `h[0]` first (R20, R90). -/
abbrev Lanes := Vector Word 12

/-- The four lanes of the short path (R94, R95, R111). -/
structure Quad where
  a : Word
  b : Word
  c : Word
  d : Word
deriving DecidableEq, Repr

end Sys2Proof
end

