-- ==== Sys2Proof/Config.lean ====
section
/-! DEFINITION. The constants of the function. 00_scope.md R5: they are fixed, not parameters; R7: the model takes no
numeric parameter as an argument. The only open values of the spec, the reset contents of R34, are the data of a reset
draw (Machine/State.lean), not constants. -/

namespace Sys2Proof.Config

/-- `NumVars`: lanes in the long path (R5). -/
abbrev numVars : Nat := 12

/-- `BlockSize`: bytes in a block, twelve lanes of eight bytes (R5). -/
abbrev blockSize : Nat := 96

/-- `BufSize`: bytes in the staging buffer; messages shorter than this take the short path (R5). -/
abbrev bufSize : Nat := 192

/-- Bytes of the persisted image (R6, R139). -/
abbrev imageSize : Nat := 296

/-- `LenMax`: the largest value of `length` and of a legal `LEN` (R6, R65). -/
abbrev lenMax : Nat := 2147483647

/-- `SC`: default seed and padding constant (R5). -/
def sc : Word := 0xDEADBEEFDEADBEEF#64

/-- What a cell of `buf` that nothing has written since State.reset reads as. DESIGN CHOICE, unsafe: R34 gives no value
("unspecified: any 192 bytes"); notes/assumptions/6.md. -/
def unwrittenByte : Byte := 0#8

/-- What State.reset puts in `s[2..11]`. DESIGN CHOICE, unsafe: R34 gives no value ("any ten 64-bit values");
notes/assumptions/3.md. -/
def unspecifiedLane : Word := 0#64

end Sys2Proof.Config
end

