-- ==== Sys2Proof/Syntax.lean ====
section
/-! DEFINITION. The fifteen commands of 30_encoding.md R68, one constructor per row of spec/opcode_table.json, with the
operands of R63 and R64. A frame that is none of them is no instruction: the decoder refuses it (R67, R70). -/

namespace Sys2Proof

/-- The byte range of a command (R62, R65, R67 step 6). -/
inductive ByteRange where
  /-- `P = 0`: no byte range; `LEN` stands in the frame and is ignored (R62). -/
  | absent (len : BitVec 32)
  /-- `P = 1` and `LEN < 2^31`: the payload, `LEN` bytes of it; no bytes is the empty range (R62). -/
  | present (bytes : List Byte)
  /-- `P = 1` and bit 31 of `LEN` set: a negative length; nothing after the fixed part is looked at (R65, R67). -/
  | negative (len : BitVec 32)
deriving DecidableEq, Repr

/-- The commands (R68). `endMix` is the row END, whose name is a word of Lean's. -/
inductive Instr where
  /-- 0x01 INIT (R131). -/
  | init (seed1 seed2 : Word)
  /-- 0x02 UPDATE (R132). -/
  | update (range : ByteRange)
  /-- 0x03 FINAL (R134). -/
  | final
  /-- 0x04 SAVE (R137). -/
  | save
  /-- 0x05 RESTORE: the 296 bytes of `IMAGE` (R138). -/
  | restore (image : List Byte)
  /-- 0x10 HASH128 (R115). -/
  | hash128 (range : ByteRange) (seed1 seed2 : Word)
  /-- 0x11 HASH64 (R116). -/
  | hash64 (range : ByteRange) (seed : Word)
  /-- 0x12 HASH32 (R117). -/
  | hash32 (range : ByteRange) (seed : Word)
  /-- 0x13 SHORT (R111). -/
  | short (range : ByteRange) (seed1 seed2 : Word)
  /-- 0x14 LONG (R113). -/
  | long (range : ByteRange) (seed1 seed2 : Word)
  /-- 0x20 MIXBLOCK: twelve lanes and the 96 bytes of `BLOCK` (R91). -/
  | mixblock (h : Lanes) (block : List Byte)
  /-- 0x21 ENDPARTIAL (R92). -/
  | endpartial (h : Lanes)
  /-- 0x22 END: twelve lanes and the 96 bytes of `BLOCK` (R93). -/
  | endMix (h : Lanes) (block : List Byte)
  /-- 0x23 SHORTMIX (R94). -/
  | shortmix (q : Quad)
  /-- 0x24 SHORTEND (R95). -/
  | shortend (q : Quad)
deriving DecidableEq, Repr

end Sys2Proof
end

