-- ==== Sys2Proof/Machine/Operands.lean ====
section
/-! DEFINITION. How bytes become operands and operands become bytes: little-endian numbers, lanes, blocks, the padded
final block and the packed tail (00_scope.md R8 to R13, 20_memory.md R40 to R43, 30_encoding.md R64). Everything here is a
value of one command (10_state.md R28); nothing reads the machine's state. -/

namespace Sys2Proof.Machine

/-- The number whose little-endian bytes these are: the byte at the lowest offset is the least significant (R40). -/
def leNat : List Byte → Nat
  | [] => 0
  | b :: bs => b.toNat + 256 * leNat bs

/-- The `n` little-endian bytes of `v`, lowest byte first; higher bytes of `v` are dropped (R40, R64). -/
def leBytes : Nat → Nat → List Byte
  | 0, _ => []
  | n + 1, v => BitVec.ofNat 8 v :: leBytes n (v / 256)

/-- `LE64(b, off)`: the little-endian lane at byte offset `off` (R40). The rules use it with `off + 8 ≤ |b|`; bytes past
the end count as 0 (notes/assumptions/11.md). -/
def le64 (b : List Byte) (off : Nat) : Word := BitVec.ofNat 64 (leNat ((b.drop off).take 8))

/-- The u32 field at byte offset `off` (R64). -/
def le32 (b : List Byte) (off : Nat) : BitVec 32 := BitVec.ofNat 32 (leNat ((b.drop off).take 4))

/-- The eight bytes of a lane or u64 field (R40, R64). -/
def bytesOf64 (v : Word) : List Byte := leBytes 8 v.toNat

/-- The four bytes of a u32 or i32 field (R64, R139). -/
def bytesOf32 (v : BitVec 32) : List Byte := leBytes 4 v.toNat

/-- The twelve lanes at byte offset `off`: lane `i` at `off + 8·i` (R40, R63). -/
def lanesAt (b : List Byte) (off : Nat) : Lanes :=
  #v[le64 b off, le64 b (off + 8), le64 b (off + 16), le64 b (off + 24), le64 b (off + 32), le64 b (off + 40),
     le64 b (off + 48), le64 b (off + 56), le64 b (off + 64), le64 b (off + 72), le64 b (off + 80), le64 b (off + 88)]

/-- `Lanes12(b)`: the twelve data lanes of a 96-byte block (R13, R40). -/
def lanes12 (block : List Byte) : Lanes := lanesAt block 0

/-- The 96 bytes of twelve lanes, lane 0 first (R63, R66, R139). -/
def bytesOfLanes (h : Lanes) : List Byte := h.toList.flatMap bytesOf64

/-- The 32 bytes of four lanes, in the order a, b, c, d (R63, R66). -/
def bytesOfQuad (q : Quad) : List Byte := bytesOf64 q.a ++ bytesOf64 q.b ++ bytesOf64 q.c ++ bytesOf64 q.d

/-- The bytes of a digest, `h1` then `h2` (R66). -/
def bytesOfDigest (d : Word × Word) : List Byte := bytesOf64 d.1 ++ bytesOf64 d.2

/-- `ROL(x, k)` for `0 < k < 64` (R10). No rule uses another `k` (notes/assumptions/12.md). -/
def rol (x : Word) (k : Nat) : Word := (x <<< k) ||| (x >>> (64 - k))

/-- Lane `i` of twelve; the index is taken modulo 12, as in `h[(i+2) % 12]` (R90, R91). -/
def lane (h : Lanes) (i : Fin 12) : Word := h[i]

/-- `h[i] <- v` (R13). -/
def setLane (h : Lanes) (i : Fin 12) (v : Word) : Lanes := h.set i v

/-- The lane indices 0, 1, …, 11 in this order (R91, R92). -/
def laneOrder : List (Fin 12) := [0, 1, 2, 3, 4, 5, 6, 7, 8, 9, 10, 11]

/-- `PadBlock(t)` for `|t| ≤ 95`: the tail, zeros up to byte 95, and the count in byte 95 (R114). -/
def padBlock (t : List Byte) : List Byte :=
  t ++ List.replicate (95 - t.length) 0#8 ++ [BitVec.ofNat 8 t.length]

/-- The packed tail `tc` or `td`: byte `i` shifted left by `8·i`, summed (R111). -/
def packTail (t : List Byte) : Word := BitVec.ofNat 64 (leNat t)

/-- `zext_64(L) << 56`: only `L[7:0]` survives, in bits 63:56 (R11). -/
def lengthByte (len : Nat) : Word := BitVec.ofNat 64 len <<< 56

end Sys2Proof.Machine
end

