-- ==== Sys2Proof/WellFormed.lean ====
section
/-! DEFINITION. Which terms of `Instr` are commands of the hardware: what a field's width or the P bit allows
(30_encoding.md R62 to R65). Every check is a Bool. -/

namespace Sys2Proof

/-- A byte range a frame can carry: a payload is at most 2^31 − 1 bytes, a negative `LEN` has bit 31 set (R62, R65). -/
def ByteRange.wellFormed : ByteRange → Bool
  | .absent _ => true
  | .present bytes => decide (bytes.length ≤ Config.lenMax)
  | .negative len => len.msb

/-- Whether the range is present, that is `P = 1` (R62). -/
def ByteRange.isPresent : ByteRange → Bool
  | .absent _ => false
  | .present _ => true
  | .negative _ => true

/-- The byte range a command carries, if its format has one (R63). -/
def Instr.range? : Instr → Option ByteRange
  | .init _ _ => none
  | .update range => some range
  | .final => none
  | .save => none
  | .restore _ => none
  | .hash128 range _ _ => some range
  | .hash64 range _ => some range
  | .hash32 range _ => some range
  | .short range _ _ => some range
  | .long range _ _ => some range
  | .mixblock _ _ => none
  | .endpartial _ => none
  | .endMix _ _ => none
  | .shortmix _ => none
  | .shortend _ => none

/-- Well-formed commands: byte ranges as above, `P = 1` in SHORT and LONG (R62), `BLOCK` of 96 bytes and `IMAGE` of 296
(R63, R64). -/
def Instr.wellFormed : Instr → Bool
  | .init _ _ => true
  | .update range => range.wellFormed
  | .final => true
  | .save => true
  | .restore image => decide (image.length = Config.imageSize)
  | .hash128 range _ _ => range.wellFormed
  | .hash64 range _ => range.wellFormed
  | .hash32 range _ => range.wellFormed
  | .short range _ _ => range.isPresent && range.wellFormed
  | .long range _ _ => range.isPresent && range.wellFormed
  | .mixblock _ block => decide (block.length = Config.blockSize)
  | .endpartial _ => true
  | .endMix _ block => decide (block.length = Config.blockSize)
  | .shortmix _ => true
  | .shortend _ => true

end Sys2Proof
end

