-- ==== Sys2Proof/Decode.lean ====
section
/-! DEFINITION. Command frames to commands and back: the header (30_encoding.md R61), the formats (R63), the fields (R64),
the opcode map (R68), the decoding tests in their order (R67), and the encoder. -/

namespace Sys2Proof

open Sys2Proof.Machine

/-- The nine frame formats (R63). -/
inductive Format where
  | Z | S | U | H | G | Q | T | X | R
deriving DecidableEq, Repr

/-- Bytes of a format before `PAYLOAD` (R63, R67 step 5). -/
def Format.fixedPart : Format → Nat
  | .Z => 4
  | .S => 20
  | .U => 8
  | .H => 24
  | .G => 16
  | .Q => 36
  | .T => 100
  | .X => 196
  | .R => 300

/-- The formats that carry a byte range; their `LEN` is the last field of the fixed part (R63). -/
def Format.carriesRange : Format → Bool
  | .U | .H | .G => true
  | .Z | .S | .Q | .T | .X | .R => false

/-- The fifteen opcodes (R68). -/
inductive Opcode where
  | init | update | final | save | restore
  | hash128 | hash64 | hash32 | short | long
  | mixblock | endpartial | endMix | shortmix | shortend
deriving DecidableEq, Repr

/-- The opcode numbers (R68). -/
def Opcode.code : Opcode → BitVec 8
  | .init => 0x01 | .update => 0x02 | .final => 0x03 | .save => 0x04 | .restore => 0x05
  | .hash128 => 0x10 | .hash64 => 0x11 | .hash32 => 0x12 | .short => 0x13 | .long => 0x14
  | .mixblock => 0x20 | .endpartial => 0x21 | .endMix => 0x22 | .shortmix => 0x23 | .shortend => 0x24

/-- All of them, in the table's order. -/
def Opcode.all : List Opcode :=
  [.init, .update, .final, .save, .restore, .hash128, .hash64, .hash32, .short, .long,
   .mixblock, .endpartial, .endMix, .shortmix, .shortend]

/-- The opcode with this number; none for the 241 unassigned values (R67 step 3, R70). -/
def Opcode.ofCode (c : BitVec 8) : Option Opcode := Opcode.all.find? fun o => o.code == c

/-- The format of a command (R68). -/
def Opcode.format : Opcode → Format
  | .init => .S | .update => .U | .final => .Z | .save => .Z | .restore => .R
  | .hash128 => .H | .hash64 => .G | .hash32 => .G | .short => .H | .long => .H
  | .mixblock => .X | .endpartial => .T | .endMix => .X | .shortmix => .Q | .shortend => .Q

/-- The values of the P bit a command allows (R62, R68). -/
def Opcode.allowsP (o : Opcode) (p : Bool) : Bool :=
  match o with
  | .update | .hash128 | .hash64 | .hash32 => true
  | .short | .long => p
  | .init | .final | .save | .restore | .mixblock | .endpartial | .endMix | .shortmix | .shortend => !p

/-- The `match` column of the table (R68). -/
def Opcode.tableMatch : Opcode → BitVec 32
  | .init => 0x00000001 | .update => 0x00000002 | .final => 0x00000003 | .save => 0x00000004 | .restore => 0x00000005
  | .hash128 => 0x00000010 | .hash64 => 0x00000011 | .hash32 => 0x00000012
  | .short => 0x00000113 | .long => 0x00000114
  | .mixblock => 0x00000020 | .endpartial => 0x00000021 | .endMix => 0x00000022
  | .shortmix => 0x00000023 | .shortend => 0x00000024

/-- The `mask` column of the table (R68). The decoder follows the tests of R67 instead; that the two agree is a statement
of Certificates/Slice0/Obligations.lean. -/
def Opcode.tableMask : Opcode → BitVec 32
  | .update | .hash128 | .hash64 | .hash32 => 0xFFFFFEFF
  | .init | .final | .save | .restore | .short | .long
  | .mixblock | .endpartial | .endMix | .shortmix | .shortend => 0xFFFFFFFF

/-- Why a frame is no command: the test of R67 it fails. All are answered IllegalCommand (R163). -/
inductive DecodeError where
  /-- (1) fewer than 4 bytes. -/
  | noHeader
  /-- (2) a reserved header bit is set. -/
  | reservedBits
  /-- (3) the opcode is not assigned. -/
  | unknownOpcode
  /-- (4) the P bit has a value the command does not allow. -/
  | illegalP
  /-- (5) the frame ends inside the fixed part. -/
  | shortFixedPart
  /-- (6) the frame has not the length its format requires. -/
  | wrongLength
deriving DecidableEq, Repr

/-- `HDR`: frame bytes 0..3, little-endian (R61). -/
def header (f : Frame) : BitVec 32 := le32 f 0

/-- `OPC`, header bits 7:0 (R61). -/
def headerOpc (hdr : BitVec 32) : BitVec 8 := hdr.extractLsb' 0 8

/-- `P`, header bit 8 (R61). -/
def headerP (hdr : BitVec 32) : Bool := hdr.getLsbD 8

/-- `RSV`, header bits 31:9 (R61). -/
def headerRsv (hdr : BitVec 32) : BitVec 23 := hdr.extractLsb' 9 23

/-- The `LEN` field of a frame of a format that carries a range: the last four bytes of the fixed part (R63). -/
def lenField (o : Opcode) (f : Frame) : BitVec 32 := le32 f (o.format.fixedPart - 4)

/-- The byte range of an accepted frame (R62, R64, R67 step 6). -/
def rangeField (o : Opcode) (p : Bool) (f : Frame) : ByteRange :=
  let len := lenField o f
  if p then
    if len.msb then .negative len else .present (f.drop o.format.fixedPart)
  else .absent len

/-- The four lanes at an offset, in the order A, B, C, D (R63). -/
def quadAt (f : Frame) (off : Nat) : Quad :=
  { a := le64 f off, b := le64 f (off + 8), c := le64 f (off + 16), d := le64 f (off + 24) }

/-- The command an accepted frame names, with the operands at the offsets of R63. -/
def build (o : Opcode) (p : Bool) (f : Frame) : Instr :=
  match o with
  | .init => .init (le64 f 4) (le64 f 12)
  | .update => .update (rangeField o p f)
  | .final => .final
  | .save => .save
  | .restore => .restore (f.drop 4)
  | .hash128 => .hash128 (rangeField o p f) (le64 f 4) (le64 f 12)
  | .hash64 => .hash64 (rangeField o p f) (le64 f 4)
  | .hash32 => .hash32 (rangeField o p f) (le64 f 4)
  | .short => .short (rangeField o p f) (le64 f 4) (le64 f 12)
  | .long => .long (rangeField o p f) (le64 f 4) (le64 f 12)
  | .mixblock => .mixblock (lanesAt f 4) (f.drop 100)
  | .endpartial => .endpartial (lanesAt f 4)
  | .endMix => .endMix (lanesAt f 4) (f.drop 100)
  | .shortmix => .shortmix (quadAt f 4)
  | .shortend => .shortend (quadAt f 4)

/-- The decoder: the six tests of R67 in their order, total on every byte sequence (R67, R70). -/
def decode (f : Frame) : Except DecodeError Instr :=
  if f.length < 4 then .error .noHeader else
  if headerRsv (header f) ≠ 0 then .error .reservedBits else
  match Opcode.ofCode (headerOpc (header f)) with
  | none => .error .unknownOpcode
  | some o =>
    let p := headerP (header f)
    if o.allowsP p = false then .error .illegalP else
    if f.length < o.format.fixedPart then .error .shortFixedPart else
    if o.format.carriesRange && p && (lenField o f).msb then .ok (build o p f) else
    if f.length = o.format.fixedPart + (if o.format.carriesRange && p then (lenField o f).toNat else 0) then
      .ok (build o p f)
    else .error .wrongLength

/-- The header word of a command: its opcode and its P bit (R61). -/
def headerWord (o : Opcode) (p : Bool) : BitVec 32 := (o.code.zeroExtend 32) ||| (if p then 0x100#32 else 0#32)

/-- The P bit of a byte range (R62). -/
def ByteRange.p (r : ByteRange) : Bool := r.isPresent

/-- The `LEN` field of a byte range (R62, R65). -/
def ByteRange.lenWord : ByteRange → BitVec 32
  | .absent len => len
  | .present bytes => BitVec.ofNat 32 bytes.length
  | .negative len => len

/-- The payload bytes that follow the fixed part (R62). -/
def ByteRange.payload : ByteRange → List Byte
  | .absent _ => []
  | .present bytes => bytes
  | .negative _ => []

/-- The `LEN` and `PAYLOAD` fields of a byte range (R63). -/
def ByteRange.fields (r : ByteRange) : List Byte := bytesOf32 r.lenWord ++ r.payload

/-- The opcode of a command (R68). -/
def Instr.opcode : Instr → Opcode
  | .init _ _ => .init
  | .update _ => .update
  | .final => .final
  | .save => .save
  | .restore _ => .restore
  | .hash128 _ _ _ => .hash128
  | .hash64 _ _ => .hash64
  | .hash32 _ _ => .hash32
  | .short _ _ _ => .short
  | .long _ _ _ => .long
  | .mixblock _ _ => .mixblock
  | .endpartial _ => .endpartial
  | .endMix _ _ => .endMix
  | .shortmix _ => .shortmix
  | .shortend _ => .shortend

/-- The P bit of a command (R62). -/
def Instr.p : Instr → Bool
  | .init _ _ => false
  | .update range => range.p
  | .final => false
  | .save => false
  | .restore _ => false
  | .hash128 range _ _ => range.p
  | .hash64 range _ => range.p
  | .hash32 range _ => range.p
  | .short range _ _ => range.p
  | .long range _ _ => range.p
  | .mixblock _ _ => false
  | .endpartial _ => false
  | .endMix _ _ => false
  | .shortmix _ => false
  | .shortend _ => false

/-- The bytes after the header, in the order of R63. -/
def Instr.operandBytes : Instr → List Byte
  | .init seed1 seed2 => bytesOf64 seed1 ++ bytesOf64 seed2
  | .update range => range.fields
  | .final => []
  | .save => []
  | .restore image => image
  | .hash128 range seed1 seed2 => bytesOf64 seed1 ++ bytesOf64 seed2 ++ range.fields
  | .hash64 range seed => bytesOf64 seed ++ range.fields
  | .hash32 range seed => bytesOf64 seed ++ range.fields
  | .short range seed1 seed2 => bytesOf64 seed1 ++ bytesOf64 seed2 ++ range.fields
  | .long range seed1 seed2 => bytesOf64 seed1 ++ bytesOf64 seed2 ++ range.fields
  | .mixblock h block => bytesOfLanes h ++ block
  | .endpartial h => bytesOfLanes h
  | .endMix h block => bytesOfLanes h ++ block
  | .shortmix q => bytesOfQuad q
  | .shortend q => bytesOfQuad q

/-- The encoder: the frame of a command (R61, R63, R64). -/
def encode (i : Instr) : Frame := bytesOf32 (headerWord i.opcode i.p) ++ i.operandBytes

/-- Pad a frame with zeros up to `n` bytes. -/
def padTo (n : Nat) (f : Frame) : Frame := f ++ List.replicate (n - f.length) 0#8

/-- The length in bytes a frame must have that starts with these bytes and goes on with zeros (R67, R69). A header that
names no command asks for no more bytes. -/
def requiredLength (f : Frame) : Nat :=
  match Opcode.ofCode (headerOpc (header f)) with
  | none => f.length
  | some o =>
    let g := padTo o.format.fixedPart f
    o.format.fixedPart +
      (if o.format.carriesRange && headerP (header g) && !(lenField o g).msb then (lenField o g).toNat else 0)

/-- The frame whose first `nbits` bits are `w` (bit 0 the least significant bit of byte 0) and whose other bits, up to the
length its header requires, are 0 (notes/assumptions/14.md). -/
def frameOfTableWord (nbits w : Nat) : Frame :=
  let f := leBytes (nbits / 8) w
  padTo (requiredLength f) f

/-- The command the decoder reads from a table word laid out as a frame. -/
def decodeTableWord (nbits w : Nat) : Option Instr := (decode (frameOfTableWord nbits w)).toOption

end Sys2Proof
end

