-- ==== Sys2Proof/Machine/Flags.lean ====
section
/-! DEFINITION. The block has no flags and no condition codes (10_state.md R31): no operation produces one and no command
reads one. The only outcome of a command besides its result is the status code of its response (60_exceptions.md R160),
which is kept nowhere. This file holds the status codes and the response frames (30_encoding.md R66). -/

namespace Sys2Proof.Machine

/-- The four errors (R160). -/
inductive CommandError where
  /-- UPDATE was given an absent byte range (R161). -/
  | nullInput
  /-- A length or a field of a saved image is outside its range (R162). -/
  | rangeOutOfBounds
  /-- The frame does not decode (R163). -/
  | illegalCommand
  /-- UPDATE would take `length` above 2^31 − 1 (R164). -/
  | lengthOverflow
deriving DecidableEq, Repr

/-- The status of a command that was carried out (R160). -/
def okStatus : BitVec 8 := 0x00

/-- The status numbers (R160). -/
def CommandError.status : CommandError → BitVec 8
  | .nullInput => 0x01
  | .rangeOutOfBounds => 0x02
  | .illegalCommand => 0x03
  | .lengthOverflow => 0x04

/-- `RSP`: the status in bits 7:0, zeros above, as four little-endian bytes (R66). -/
def rspBytes (status : BitVec 8) : Frame := bytesOf32 (status.zeroExtend 32)

/-- The response of a command that was carried out: `RSP`, then the result (R66). -/
def okFrame (result : List Byte) : Frame := rspBytes okStatus ++ result

/-- The response of a rejected command: `RSP` and nothing else (R66, R165). -/
def errorFrame (e : CommandError) : Frame := rspBytes e.status

end Sys2Proof.Machine
end

