-- ==== Sys2Proof/Machine/State.lean ====
section
/-! DEFINITION. The architectural state of one block (10_state.md R33: twelve accumulators, the staging buffer, two
counters, nothing hidden), the host's side of the two ports, the state after reset (R34), and the reasons a step could
stop. -/

namespace Sys2Proof.Machine

/-- Cells of `buf`: (address, byte) pairs in one canonical form, `Memory.wf` (Machine/Ops.lean). An address that is not
listed reads as `Config.unwrittenByte`. -/
abbrev Memory := List Host.Cell

/-- The values a reset leaves in the cells R34 calls unspecified, "a draw made at reset": `acc` for `s[2..11]` (its
entries 0 and 1 are not used), `buf` for `buf[0, 192)` (bytes it does not list are `Config.unwrittenByte`, bytes past the
192nd are not used). Nothing in the model constrains it. -/
structure ResetDraw where
  acc : Lanes
  buf : List Byte
deriving DecidableEq, Repr

/-- What the host does to the block: present a command frame on the command port (R60), or reset the block (R180). -/
inductive Input where
  | command (frame : Frame)
  | reset (draw : ResetDraw)
deriving DecidableEq, Repr

/-- The machine. `acc`, `buf`, `length`, `remainder` are the hardware's whole state (R32, R33); `inbox` and `responses`
are the model's own fields for the host's side of the ports (notes/assumptions/1.md, 2.md). -/
structure State where
  /-- The accumulators `s[0..11]` (R20). -/
  acc : Lanes
  /-- The staging buffer `buf[0..191]` (R22, R46). -/
  buf : Memory
  /-- Bytes absorbed since the last INIT: 32 bits, bit 31 always 0 (R24). -/
  length : BitVec 32
  /-- Bytes held in `buf`, 0..191 (R25). -/
  remainder : BitVec 8
  /-- What the host will present, the next input first (R60, R180). -/
  inbox : List Input
  /-- The response frames presented so far, oldest first (R60, R66). -/
  responses : List Frame
deriving DecidableEq, Repr

/-- Why the machine stops. The hardware never does (R172, R187, R188). -/
inductive Fault where
  /-- A read or write of `n` bytes of `buf` at `off` that reaches past cell 191: no such cell exists (R44, R46). Raised by
  UPDATE, FINAL, SAVE and RESTORE's buffer accesses, only from a state with `remainder ≥ 192`, which R25 rules out.
  Safe: the model stops where the hardware cannot be. -/
  | bufferRange (off n : Nat)
deriving DecidableEq, Repr

/-- Why an instruction has no meaning in the model. -/
inductive Refusal where
  /-- An instruction of the table that has no meaning yet: raised by `exec`'s refused arms, of which there is none. Safe. -/
  | notModelled (mnemonic : String)
deriving DecidableEq, Repr

/-- The reset draw State.reset is made with: zeros. DESIGN CHOICE, unsafe (notes/assumptions/3.md). -/
def ResetDraw.zero : ResetDraw := { acc := Vector.replicate 12 Config.unspecifiedLane, buf := [] }

/-- The machine right after reset (R34, R181): `length = remainder = 0`, `s[0] = s[1] = SC`; the cells R34 calls
unspecified as `ResetDraw.zero` has them; no input waiting and no response presented. A reset EVENT (R180) takes any draw:
`State.afterReset` in Machine/Ops.lean. -/
def State.reset : State :=
  { acc := #v[Config.sc, Config.sc, Config.unspecifiedLane, Config.unspecifiedLane, Config.unspecifiedLane,
      Config.unspecifiedLane, Config.unspecifiedLane, Config.unspecifiedLane, Config.unspecifiedLane,
      Config.unspecifiedLane, Config.unspecifiedLane, Config.unspecifiedLane]
    buf := []
    length := 0#32
    remainder := 0#8
    inbox := []
    responses := [] }

end Sys2Proof.Machine
end

