-- ==== Sys2Proof/Machine/Ops.lean ====
section
/-! DEFINITION. The named operations over the state: the buffer (20_memory.md R44, R46), the counters and accumulators
(00_scope.md R13), answering and rejecting a command (R14, 60_exceptions.md R165), the reset event
(70_reset_and_hazards.md R180), and taking the next input (30_encoding.md R60). -/

namespace Sys2Proof.Machine

/-- The outcome of a command or a step. -/
abbrev Result := Host.Outcome State Fault Refusal

/-! ### The staging buffer -/

/-- The canonical form of a buffer: addresses strictly rising, below 192, and no entry equal to what an unlisted address
reads as. -/
abbrev Memory.wf (m : Memory) : Prop :=
  m.Pairwise (fun c d => c.1 < d.1) ∧ ∀ c ∈ m, c.1 < Config.bufSize ∧ c.2 ≠ Config.unwrittenByte

/-- The byte at one address (R44). -/
def Memory.read : Memory → Nat → Byte
  | [], _ => Config.unwrittenByte
  | (a, b) :: m, k => if a = k then b else Memory.read m k

/-- Set the byte at one address, keeping the canonical form (R44). -/
def Memory.write : Memory → Nat → Byte → Memory
  | [], k, v => if v = Config.unwrittenByte then [] else [(k, v)]
  | (a, b) :: m, k, v =>
    if k < a then (if v = Config.unwrittenByte then (a, b) :: m else (k, v) :: (a, b) :: m)
    else if k = a then (if v = Config.unwrittenByte then m else (k, v) :: m)
    else (a, b) :: Memory.write m k v

/-- Set the bytes at `off`, `off + 1`, … in increasing order (R43, R44). -/
def Memory.writeBytes : Memory → Nat → List Byte → Memory
  | m, _, [] => m
  | m, off, b :: bs => Memory.writeBytes (Memory.write m off b) (off + 1) bs

/-- The bytes at `off`, …, `off + n − 1` (R44). -/
def Memory.readBytes (m : Memory) : Nat → Nat → List Byte
  | _, 0 => []
  | off, n + 1 => m.read off :: Memory.readBytes m (off + 1) n

/-- `BufRead(off, n)`, for `off + n ≤ 192`; no cell exists above (R44, R46). -/
def bufRead (m : Memory) (off n : Nat) : Except Fault (List Byte) :=
  if off + n ≤ Config.bufSize then .ok (m.readBytes off n) else .error (.bufferRange off n)

/-- `BufWrite(off, bytes)`, for `off + |bytes| ≤ 192`; no cell exists above (R44, R46). -/
def bufWrite (m : Memory) (off : Nat) (bytes : List Byte) : Except Fault Memory :=
  if off + bytes.length ≤ Config.bufSize then .ok (m.writeBytes off bytes) else .error (.bufferRange off bytes.length)

/-! ### Writing the state -/

/-- `s[0..11] <- h` (R13). -/
def State.setAcc (h : Lanes) (s : State) : State := { s with acc := h }

/-- The buffer as a whole (R13). -/
def State.setBuf (m : Memory) (s : State) : State := { s with buf := m }

/-- `length <- n`, a 32-bit register (R13, R24). -/
def State.setLength (n : Nat) (s : State) : State := { s with length := BitVec.ofNat 32 n }

/-- `remainder <- n`, an 8-bit register (R13, R25). -/
def State.setRemainder (n : Nat) (s : State) : State := { s with remainder := BitVec.ofNat 8 n }

/-- What the host will present (notes/assumptions/1.md). -/
def State.setInbox (inputs : List Input) (s : State) : State := { s with inbox := inputs }

/-- Present one response frame (R60, R66). -/
def State.pushResponse (frame : Frame) (s : State) : State := { s with responses := s.responses ++ [frame] }

/-! ### The outcomes of a command -/

/-- `return (v…)`: status OK and the result (R14, R66). -/
def answer (result : List Byte) (s : State) : Result := .next (s.pushResponse (okFrame result))

/-- `raise e`: the block's whole way of taking an exception. The status is reported in the response and the state stays as
it was; nothing is saved, vectored or returned from, so there is no return from one (R14, R165, R168). -/
def raise (e : CommandError) (s : State) : Result := .next (s.pushResponse (errorFrame e))

/-- A pure command's end: its result, or its error (R14). -/
def conclude (r : Except CommandError (List Byte)) (s : State) : Result :=
  match r with
  | .ok result => answer result s
  | .error e => raise e s

/-- Go on with a buffer access's result; a cell that does not exist stops the machine. -/
def withBuffer {α : Type} (r : Except Fault α) (k : α → Result) : Result :=
  match r with
  | .ok v => k v
  | .error e => .fault e

/-- The payload of a byte range that must be present with `LEN < 2^31` (R65, R162); `none` is an absent range. -/
def payloadOf (range : ByteRange) : Except CommandError (Option (List Byte)) :=
  match range with
  | .absent _ => .ok none
  | .negative _ => .error .rangeOutOfBounds
  | .present bytes => if bytes.length ≥ 2 ^ 31 then .error .rangeOutOfBounds else .ok (some bytes)

/-! ### Reset and the ports -/

/-- The reset event with its draw: `length = remainder = 0`, `s[0] = s[1] = SC`, every other cell as drawn; no response;
what the host goes on to present is not the block's (R34, R180, R181; notes/assumptions/4.md, 16.md). -/
def State.afterReset (draw : ResetDraw) (s : State) : State :=
  { s with
    acc := setLane (setLane draw.acc 0 Config.sc) 1 Config.sc
    buf := Memory.writeBytes [] 0 (draw.buf.take Config.bufSize)
    length := 0#32
    remainder := 0#8 }

/-- Run a frame: the command it decodes to, or IllegalCommand (R67, R163). -/
def runFrame (decoded : Except DecodeError Instr) (run : Instr → State → Result) (s : State) : Result :=
  match decoded with
  | .ok i => run i s
  | .error _ => raise .illegalCommand s

/-- One transition: take the next input, a command frame (R60) or a reset (R180). With none presented the block waits
(R182; notes/assumptions/5.md). -/
def takeInput (run : Instr → State → Result) (decodeFrame : Frame → Except DecodeError Instr) (s : State) : Result :=
  match s.inbox with
  | [] => .next s
  | .command frame :: rest => runFrame (decodeFrame frame) run (s.setInbox rest)
  | .reset draw :: rest => .next ((s.setInbox rest).afterReset draw)

/-- Present a frame as the host's next input. -/
def State.present (frame : Frame) (s : State) : State := s.setInbox (.command frame :: s.inbox)

end Sys2Proof.Machine
end

