-- ==== Sys2Proof/Machine/Primitives.lean ====
section
/-! DEFINITION. The five mixing primitives (40_mixing_primitives.md R90 to R96) and their commands MIXBLOCK, ENDPARTIAL,
END, SHORTMIX, SHORTEND. The primitives are pure functions of lanes, each statement seeing the writes of the ones before
it (R90). -/

namespace Sys2Proof.Machine

/-- `R`, the rotations of MixBlock (R91, R96). -/
def mixRotations : Vector Nat 12 := #v[11, 32, 43, 31, 17, 28, 39, 57, 55, 54, 22, 46]

/-- `E`, the rotations of EndPartial (R92, R96). -/
def endRotations : Vector Nat 12 := #v[44, 15, 34, 21, 38, 33, 10, 13, 38, 53, 42, 54]

/-- Iteration `i` of MixBlock: its five statements in order (R91). Indices are modulo 12. -/
def mixStep (d : Lanes) (h : Lanes) (i : Fin 12) : Lanes :=
  let h := setLane h i (lane h i + lane d i)
  let h := setLane h (i + 2) (lane h (i + 2) ^^^ lane h (i + 10))
  let h := setLane h (i + 11) (lane h (i + 11) ^^^ lane h i)
  let h := setLane h i (rol (lane h i) mixRotations[i])
  setLane h (i + 11) (lane h (i + 11) + lane h (i + 1))

/-- `MixBlock(h, d)` (R91). -/
def mixBlock (h d : Lanes) : Lanes := laneOrder.foldl (mixStep d) h

/-- Iteration `i` of EndPartial: its three statements in order (R92). -/
def endStep (h : Lanes) (i : Fin 12) : Lanes :=
  let h := setLane h (i + 11) (lane h (i + 11) + lane h (i + 1))
  let h := setLane h (i + 2) (lane h (i + 2) ^^^ lane h (i + 11))
  setLane h (i + 1) (rol (lane h (i + 1)) endRotations[i])

/-- `EndPartial(h)` (R92). -/
def endPartial (h : Lanes) : Lanes := laneOrder.foldl endStep h

/-- Lane-wise sum modulo 2^64 (R93). -/
def addLanes (h d : Lanes) : Lanes := Vector.zipWith (· + ·) h d

/-- `End(h, d)`: add the data, then EndPartial three times (R93). -/
def endFinal (h d : Lanes) : Lanes := endPartial (endPartial (endPartial (addLanes h d)))

/-- A line of ShortMix on `c`: `c = ROL(c,k); c += d; a ^= c` (R94). -/
def mixLineC (k : Nat) (q : Quad) : Quad :=
  let c := rol q.c k + q.d
  { q with c := c, a := q.a ^^^ c }

/-- A line of ShortMix on `d`: `d = ROL(d,k); d += a; b ^= d` (R94). -/
def mixLineD (k : Nat) (q : Quad) : Quad :=
  let d := rol q.d k + q.a
  { q with d := d, b := q.b ^^^ d }

/-- A line of ShortMix on `a`: `a = ROL(a,k); a += b; c ^= a` (R94). -/
def mixLineA (k : Nat) (q : Quad) : Quad :=
  let a := rol q.a k + q.b
  { q with a := a, c := q.c ^^^ a }

/-- A line of ShortMix on `b`: `b = ROL(b,k); b += c; d ^= b` (R94). -/
def mixLineB (k : Nat) (q : Quad) : Quad :=
  let b := rol q.b k + q.c
  { q with b := b, d := q.d ^^^ b }

/-- `ShortMix(a, b, c, d)`: twelve lines in order (R94). -/
def shortMix (q : Quad) : Quad :=
  q |> mixLineC 50 |> mixLineD 52 |> mixLineA 30 |> mixLineB 41
    |> mixLineC 54 |> mixLineD 48 |> mixLineA 38 |> mixLineB 37
    |> mixLineC 62 |> mixLineD 34 |> mixLineA 5 |> mixLineB 36

/-- A step of ShortEnd on `d`: `d ^= c; c = ROL(c,k); d += c` (R95). -/
def endStepD (k : Nat) (q : Quad) : Quad :=
  let c := rol q.c k
  { q with c := c, d := (q.d ^^^ q.c) + c }

/-- A step of ShortEnd on `a`: `a ^= d; d = ROL(d,k); a += d` (R95). -/
def endStepA (k : Nat) (q : Quad) : Quad :=
  let d := rol q.d k
  { q with d := d, a := (q.a ^^^ q.d) + d }

/-- A step of ShortEnd on `b`: `b ^= a; a = ROL(a,k); b += a` (R95). -/
def endStepB (k : Nat) (q : Quad) : Quad :=
  let a := rol q.a k
  { q with a := a, b := (q.b ^^^ q.a) + a }

/-- A step of ShortEnd on `c`: `c ^= b; b = ROL(b,k); c += b` (R95). -/
def endStepC (k : Nat) (q : Quad) : Quad :=
  let b := rol q.b k
  { q with b := b, c := (q.c ^^^ q.b) + b }

/-- `ShortEnd(a, b, c, d)`: eleven steps in order (R95). -/
def shortEnd (q : Quad) : Quad :=
  q |> endStepD 15 |> endStepA 52 |> endStepB 26 |> endStepC 51
    |> endStepD 28 |> endStepA 9 |> endStepB 47 |> endStepC 54
    |> endStepD 32 |> endStepA 25 |> endStepB 63

/-- 0x20 MIXBLOCK: pure (R91). -/
def execMixblock (h : Lanes) (block : List Byte) (s : State) : Result :=
  answer (bytesOfLanes (mixBlock h (lanes12 block))) s

/-- 0x21 ENDPARTIAL: pure (R92). -/
def execEndpartial (h : Lanes) (s : State) : Result :=
  answer (bytesOfLanes (endPartial h)) s

/-- 0x22 END: pure (R93). -/
def execEnd (h : Lanes) (block : List Byte) (s : State) : Result :=
  answer (bytesOfLanes (endFinal h (lanes12 block))) s

/-- 0x23 SHORTMIX: pure (R94). -/
def execShortmix (q : Quad) (s : State) : Result :=
  answer (bytesOfQuad (shortMix q)) s

/-- 0x24 SHORTEND: pure (R95). -/
def execShortend (q : Quad) (s : State) : Result :=
  answer (bytesOfQuad (shortEnd q)) s

end Sys2Proof.Machine
end

