-- ==== Sys2Proof/Machine/OneShot.lean ====
section
/-! DEFINITION. The one-shot engine (41_oneshot_engine.md R110 to R118): the short path, the long path, the dispatcher and
the narrower digests, and the commands SHORT, LONG, HASH128, HASH64, HASH32. They read and write no state. -/

namespace Sys2Proof.Machine

/-- One 16-byte group: `c += w0; d += w1; ShortMix` (R111). -/
def absorbPair (w0 w1 : Word) (q : Quad) : Quad :=
  shortMix { q with c := q.c + w0, d := q.d + w1 }

/-- One 32-byte group: the pair above, then `a += w2; b += w3` (R111). -/
def absorbGroup (group : List Byte) (q : Quad) : Quad :=
  let r := absorbPair (le64 group 0) (le64 group 8) q
  { r with a := r.a + le64 group 16, b := r.b + le64 group 24 }

/-- The body of the short path: `n` groups of 32 bytes from the front of `m` (R111). -/
def absorbGroups : Nat → List Byte → Quad → Quad
  | 0, _, q => q
  | n + 1, m, q => absorbGroups n (m.drop 32) (absorbGroup (m.take 32) q)

/-- The end of the short path on a tail of fewer than 16 bytes of a message of `len` bytes: the length byte, the packed
tail, `SC` twice for an empty tail, `ShortEnd` (R111; the tail is ADDED: notes/assumptions/8.md). -/
def shortTail (len : Nat) (tail : List Byte) (q : Quad) : Quad :=
  let q := { q with d := q.d + lengthByte len }
  let q := { q with c := q.c + packTail (tail.take 8), d := q.d + packTail (tail.drop 8) }
  let q := if tail.length = 0 then { q with c := q.c + Config.sc, d := q.d + Config.sc } else q
  shortEnd q

/-- `Short(m, L, x, y)` with `L` the length of `m` (R110, R111). -/
def shortPath (m : List Byte) (seed1 seed2 : Word) : Word × Word :=
  let q := absorbGroups (m.length / 32) m { a := seed1, b := seed2, c := Config.sc, d := Config.sc }
  let rest := m.drop (32 * (m.length / 32))
  let r :=
    if rest.length ≥ 16 then shortTail m.length (rest.drop 16) (absorbPair (le64 rest 0) (le64 rest 8) q)
    else shortTail m.length rest q
  (r.a, r.b)

/-- `SeedInit(x, y)` (R112). -/
def seedInit (seed1 seed2 : Word) : Lanes :=
  #v[seed1, seed2, Config.sc, seed1, seed2, Config.sc, seed1, seed2, Config.sc, seed1, seed2, Config.sc]

/-- Absorb `n` blocks of 96 bytes from the front of `m`, in order (R113, R132 step 5). -/
def absorbBlocks : Nat → List Byte → Lanes → Lanes
  | 0, _, h => h
  | n + 1, m, h => absorbBlocks n (m.drop 96) (mixBlock h (lanes12 (m.take 96)))

/-- `End` over the padded final block of a tail of fewer than 96 bytes: lanes 0 and 1 are the digest (R113, R114, R134). -/
def finishLong (h : Lanes) (tail : List Byte) : Word × Word :=
  let r := endFinal h (lanes12 (padBlock tail))
  (lane r 0, lane r 1)

/-- `Long(m, L, x, y)` with `L` the length of `m` (R110, R113). -/
def longPath (m : List Byte) (seed1 seed2 : Word) : Word × Word :=
  let n := m.length / 96
  finishLong (absorbBlocks n m (seedInit seed1 seed2)) (m.drop (96 * n))

/-- The dispatcher on a present message: short below 192 bytes, long from there (R115). -/
def hashMessage (m : List Byte) (seed1 seed2 : Word) : Word × Word :=
  if m.length < Config.bufSize then shortPath m seed1 seed2 else longPath m seed1 seed2

/-- `hash128(bytes, seed1, seed2)`: an absent range gives (0, 0) and is no error (R115). -/
def hash128 (range : ByteRange) (seed1 seed2 : Word) : Except CommandError (Word × Word) :=
  match payloadOf range with
  | .error e => .error e
  | .ok none => .ok (0#64, 0#64)
  | .ok (some m) => .ok (hashMessage m seed1 seed2)

/-- `hash64(bytes, seed)`: the first half of `hash128(bytes, seed, seed)` (R116). -/
def hash64 (range : ByteRange) (seed : Word) : Except CommandError Word :=
  (hash128 range seed seed).map (·.1)

/-- `hash32(bytes, seed)`: bits 31:0 of `hash64` (R117). -/
def hash32 (range : ByteRange) (seed : Word) : Except CommandError (BitVec 32) :=
  (hash64 range seed).map (·.extractLsb' 0 32)

/-- A path run as a command of its own. An absent range is no SHORT or LONG command (R62): IllegalCommand, which the
decoder answers first (notes/assumptions/11.md). -/
def runPath (path : List Byte → Word → Word → Word × Word) (range : ByteRange) (seed1 seed2 : Word) :
    Except CommandError (List Byte) :=
  match payloadOf range with
  | .error e => .error e
  | .ok none => .error .illegalCommand
  | .ok (some m) => .ok (bytesOfDigest (path m seed1 seed2))

/-- 0x10 HASH128 (R115). -/
def execHash128 (range : ByteRange) (seed1 seed2 : Word) (s : State) : Result :=
  conclude ((hash128 range seed1 seed2).map bytesOfDigest) s

/-- 0x11 HASH64 (R116). -/
def execHash64 (range : ByteRange) (seed : Word) (s : State) : Result :=
  conclude ((hash64 range seed).map bytesOf64) s

/-- 0x12 HASH32 (R117). -/
def execHash32 (range : ByteRange) (seed : Word) (s : State) : Result :=
  conclude ((hash32 range seed).map bytesOf32) s

/-- 0x13 SHORT: the short path on any length (R111). -/
def execShort (range : ByteRange) (seed1 seed2 : Word) (s : State) : Result :=
  conclude (runPath shortPath range seed1 seed2) s

/-- 0x14 LONG: the long path on any length (R113). -/
def execLong (range : ByteRange) (seed1 seed2 : Word) (s : State) : Result :=
  conclude (runPath longPath range seed1 seed2) s

end Sys2Proof.Machine
end

