-- ==== Sys2Proof/Machine/Streaming.lean ====
section
/-! DEFINITION. The streaming hasher (42_streaming_hasher.md R130 to R141): INIT, UPDATE, FINAL, SAVE, RESTORE, the only
commands that read or write architectural state. A cell changes only when a rule writes it (R141; notes/assumptions/9.md). -/

namespace Sys2Proof.Machine

/-- 0x01 INIT: `length`, `remainder`, `s[0]`, `s[1]` are written and nothing else (R131). -/
def execInit (seed1 seed2 : Word) (s : State) : Result :=
  answer [] (((s.setLength 0).setRemainder 0).setAcc (setLane (setLane s.acc 0 seed1) 1 seed2))

/-- UPDATE's short route: the chunk fits in the buffer (R132 step 1). -/
def updateShort (pay : List Byte) (s : State) : Except Fault State :=
  match bufWrite s.buf s.remainder.toNat pay with
  | .error e => .error e
  | .ok buf =>
    .ok (((s.setBuf buf).setRemainder (pay.length + s.remainder.toNat)).setLength (s.length.toNat + pay.length))

/-- The working lanes an UPDATE starts its long route with: seeded at the crossing, the accumulators after it (R132
step 2). -/
def workingLanes (s : State) : Lanes :=
  if s.length.toNat < Config.bufSize then seedInit (lane s.acc 0) (lane s.acc 1) else s.acc

/-- Fill the buffer from the payload and absorb its two blocks; nothing if the buffer is empty (R132 step 4). The result
is the buffer, the lanes and the payload left. -/
def drainBuffer (pay : List Byte) (h : Lanes) (s : State) : Except Fault (Memory × Lanes × List Byte) :=
  if s.remainder.toNat > 0 then
    let pre := Config.bufSize - s.remainder.toNat
    match bufWrite s.buf s.remainder.toNat (pay.take pre) with
    | .error e => .error e
    | .ok buf =>
      match bufRead buf 0 96, bufRead buf 96 96 with
      | .ok lo, .ok hi => .ok (buf, mixBlock (mixBlock h (lanes12 lo)) (lanes12 hi), pay.drop pre)
      | .error e, _ => .error e
      | _, .error e => .error e
  else .ok (s.buf, h, pay)

/-- UPDATE's long route: steps 2 to 7 (R132). -/
def updateLong (pay : List Byte) (s : State) : Except Fault State :=
  match drainBuffer pay (workingLanes s) s with
  | .error e => .error e
  | .ok (buf, h, rest) =>
    let n := rest.length / 96
    let tail := rest.drop (96 * n)
    match bufWrite buf 0 tail with
    | .error e => .error e
    | .ok buf' =>
      .ok ((((s.setBuf buf').setRemainder tail.length).setLength (s.length.toNat + pay.length)).setAcc
        (absorbBlocks n rest h))

/-- 0x02 UPDATE: NullInput, RangeOutOfBounds, LengthOverflow in this order, then one of the two routes (R132, R133, R166). -/
def execUpdate (range : ByteRange) (s : State) : Result :=
  match payloadOf range with
  | .ok none => raise .nullInput s
  | .error e => raise e s
  | .ok (some pay) =>
    if s.length.toNat + pay.length > Config.lenMax then raise .lengthOverflow s
    else if pay.length + s.remainder.toNat < Config.bufSize then withBuffer (updateShort pay s) (answer [])
    else withBuffer (updateLong pay s) (answer [])

/-- FINAL's long finish, on copies (R134). -/
def longFinish (s : State) : Except Fault (Word × Word) :=
  match bufRead s.buf 0 s.remainder.toNat with
  | .error e => .error e
  | .ok b =>
    if s.remainder.toNat ≥ 96 then .ok (finishLong (mixBlock s.acc (lanes12 (b.take 96))) (b.drop 96))
    else .ok (finishLong s.acc b)

/-- FINAL's short finish: the short path over `buf[0, length)` with the seeds (R134). -/
def shortFinish (s : State) : Except Fault (Word × Word) :=
  match bufRead s.buf 0 s.length.toNat with
  | .error e => .error e
  | .ok b => .ok (shortPath b (lane s.acc 0) (lane s.acc 1))

/-- 0x03 FINAL: the digest of the stream so far; no state is written (R134, R135). -/
def execFinal (s : State) : Result :=
  withBuffer (if s.length.toNat < Config.bufSize then shortFinish s else longFinish s)
    fun d => answer (bytesOfDigest d) s

/-- The 296-byte image of the fifteen fields (R139): `buf`, `s[0..11]`, `length`, `remainder`. -/
def image (bufBytes : List Byte) (s : State) : List Byte :=
  bufBytes ++ bytesOfLanes s.acc ++ bytesOf32 s.length ++ bytesOf32 (s.remainder.zeroExtend 32)

/-- 0x04 SAVE (R137). -/
def execSave (s : State) : Result :=
  withBuffer (bufRead s.buf 0 192) fun b => answer (image b s) s

/-- The `length` field of an image (R139). -/
def imageLength (im : List Byte) : BitVec 32 := le32 im 288

/-- The `remainder` field of an image (R139). -/
def imageRemainder (im : List Byte) : BitVec 32 := le32 im 292

/-- 0x05 RESTORE: both counters are read as signed 32-bit numbers and checked, then everything is written (R138). -/
def execRestore (im : List Byte) (s : State) : Result :=
  if (imageLength im).toInt < 0 then raise .rangeOutOfBounds s
  else if (imageRemainder im).toInt < 0 ∨ (imageRemainder im).toInt > 191 then raise .rangeOutOfBounds s
  else
    withBuffer (bufWrite s.buf 0 (im.take 192)) fun buf =>
      answer [] ((((s.setBuf buf).setAcc (lanesAt im 192)).setLength (imageLength im).toNat).setRemainder
        (imageRemainder im).toNat)

end Sys2Proof.Machine
end

