-- ==== Sys2Proof/Machine/Dispatch.lean ====
section
/-! DEFINITION. One arm per command (30_encoding.md R68): a direct call of its meaning. -/

namespace Sys2Proof.Machine

def exec (i : Instr) (s : State) : Host.Outcome State Fault Refusal :=
  match i with
  | .init seed1 seed2 => Sys2Proof.Machine.execInit seed1 seed2 s
  | .update range => Sys2Proof.Machine.execUpdate range s
  | .final => Sys2Proof.Machine.execFinal s
  | .save => Sys2Proof.Machine.execSave s
  | .restore image => Sys2Proof.Machine.execRestore image s
  | .hash128 range seed1 seed2 => Sys2Proof.Machine.execHash128 range seed1 seed2 s
  | .hash64 range seed => Sys2Proof.Machine.execHash64 range seed s
  | .hash32 range seed => Sys2Proof.Machine.execHash32 range seed s
  | .short range seed1 seed2 => Sys2Proof.Machine.execShort range seed1 seed2 s
  | .long range seed1 seed2 => Sys2Proof.Machine.execLong range seed1 seed2 s
  | .mixblock h block => Sys2Proof.Machine.execMixblock h block s
  | .endpartial h => Sys2Proof.Machine.execEndpartial h s
  | .endMix h block => Sys2Proof.Machine.execEnd h block s
  | .shortmix q => Sys2Proof.Machine.execShortmix q s
  | .shortend q => Sys2Proof.Machine.execShortend q s

end Sys2Proof.Machine
end

