-- ==== Sys2Proof/Machine/Step.lean ====
section
/-! DEFINITION. One step of the machine: the next input of the host, a command frame or a reset
(30_encoding.md R60, 70_reset_and_hazards.md R180, R186). -/

namespace Sys2Proof.Machine

/-- One step: take the next input; a frame that decodes runs its command, any other is answered IllegalCommand. -/
def step (s : State) : Host.Outcome State Fault Refusal := takeInput exec decode s

/-- `s` with the frame of a table word presented as the host's next input. -/
def State.withFetchWord (s : State) (nbits w : Nat) : State := s.present (frameOfTableWord nbits w)

end Sys2Proof.Machine
end

