-- ==== Sys2Proof/Safety.lean ====
section
/-! DEFINITION. The terms claims are stated in: the state invariant (10_state.md R24 to R26), the stream a state stands for
(R26, R27), stale cells (R27 (viii)), and sequences of commands (20_memory.md R49). -/

namespace Sys2Proof.Machine

/-- The invariant of every state: `remainder ≤ 191` (R25), `length ≤ 2^31 − 1` (R24), the buffer in its canonical form
with no cell above 191 (R46). -/
abbrev State.Inv (s : State) : Prop :=
  s.buf.wf ∧ s.remainder.toNat < Config.bufSize ∧ s.length.toNat ≤ Config.lenMax

/-- The hardware's own state is the same; the host's side of the ports may differ (R33). -/
abbrev SameHardware (s t : State) : Prop :=
  t.acc = s.acc ∧ t.buf = s.buf ∧ t.length = s.length ∧ t.remainder = s.remainder

/-- The command completes: its next state is `s` with one more response and nothing else changed. -/
abbrev RespondsOnly (i : Instr) (s : State) (frame : Frame) : Prop :=
  exec i s = .next { s with responses := s.responses ++ [frame] }

/-- The counters agree with each other as they do in every stream: R27 (v) and (vi). RESTORE can install a state that
breaks this. -/
abbrev State.Consistent (s : State) : Prop :=
  (s.length.toNat < 192 → s.remainder.toNat = s.length.toNat) ∧
  (192 ≤ s.length.toNat → 192 ≤ s.length.toNat - s.remainder.toNat ∧
    (s.length.toNat - s.remainder.toNat) % 96 = 0 ∧ s.remainder.toNat ≤ s.length.toNat)

/-- The state stands for the stream `msg` begun with these seeds: R26 (ii) and (iv), R27 (v) to (vii). -/
structure Absorbed (seed1 seed2 : Word) (msg : List Byte) (s : State) : Prop where
  /-- `length` is the length of the stream. -/
  length_eq : s.length.toNat = msg.length
  /-- While `length < 192`: the seeds are in `s[0]`, `s[1]` and the whole stream is in the buffer. -/
  buffered : msg.length < 192 → lane s.acc 0 = seed1 ∧ lane s.acc 1 = seed2 ∧
    s.remainder.toNat = msg.length ∧ s.buf.readBytes 0 msg.length = msg
  /-- From 192 on: the accumulators have absorbed all but the last `remainder` bytes, which are in the buffer. -/
  absorbed : 192 ≤ msg.length → ∃ k, 2 ≤ k ∧ msg.length = 96 * k + s.remainder.toNat ∧
    s.acc = absorbBlocks k msg (seedInit seed1 seed2) ∧
    s.buf.readBytes 0 s.remainder.toNat = msg.drop (96 * k)

/-- Two states that differ at most in stale cells and in the host's ports: the counters agree, and so do `s[0]`, `s[1]`,
all twelve accumulators once `length ≥ 192`, and `buf[0, remainder)` (R16, R27 (viii)). -/
structure SameLive (s t : State) : Prop where
  length_eq : t.length = s.length
  remainder_eq : t.remainder = s.remainder
  seed1_eq : lane t.acc 0 = lane s.acc 0
  seed2_eq : lane t.acc 1 = lane s.acc 1
  acc_eq : 192 ≤ s.length.toNat → t.acc = s.acc
  buf_eq : ∀ k, k < s.remainder.toNat → t.buf.read k = s.buf.read k

/-- Run commands in order, each on the state the one before left; stop where one stops (R49). -/
def execAll : List Instr → State → Result
  | [], s => .next s
  | i :: is, s =>
    match exec i s with
    | .next t => execAll is t
    | .fault r => .fault r
    | .refused r => .refused r

/-- The commands that read and write no state (R68, R171). -/
def isPure : Instr → Bool
  | .init _ _ | .update _ | .final | .save | .restore _ => false
  | .hash128 _ _ _ | .hash64 _ _ | .hash32 _ _ | .short _ _ _ | .long _ _ _ => true
  | .mixblock _ _ | .endpartial _ | .endMix _ _ | .shortmix _ | .shortend _ => true

/-- RESTORE, the one command that can install an inconsistent state (R27). -/
def isRestore : Instr → Bool
  | .restore _ => true
  | .init _ _ | .update _ | .final | .save => false
  | .hash128 _ _ _ | .hash64 _ _ | .hash32 _ _ | .short _ _ _ | .long _ _ _ => false
  | .mixblock _ _ | .endpartial _ | .endMix _ _ | .shortmix _ | .shortend _ => false

end Sys2Proof.Machine
end

