-- ==== Sys2Proof/SpecForms.lean ====
section
/-! DEFINITION. The spec's own second forms of the functions, written out from its listings and pseudocode and used only in
statements, which say that the model's functions compute them: the unrolled MixBlock and EndPartial
(40_mixing_primitives.md R91, R92), the indexed ShortMix and ShortEnd (R94, R95), the byte formula of a lane (20_memory.md
R40), the cursor form of the two paths (41_oneshot_engine.md R111, R113), and the table's reading of a frame
(30_encoding.md R63, R68). -/

namespace Sys2Proof.SpecForms

open Sys2Proof.Machine

/-- `LE64(b, off)` as R40 writes it, for `off + 8 ≤ |b|`. -/
def le64Formula (b : List Byte) (off : Nat) : Word :=
  let byte (k : Nat) : Word := (b.getD (off + k) 0#8).zeroExtend 64
  byte 0 ||| (byte 1 <<< 8) ||| (byte 2 <<< 16) ||| (byte 3 <<< 24) |||
    (byte 4 <<< 32) ||| (byte 5 <<< 40) ||| (byte 6 <<< 48) ||| (byte 7 <<< 56)

/-- The sixty statements of MixBlock, one line per `i`, left to right (R91). -/
def mixBlockUnrolled (h d : Lanes) : Lanes :=
  let h0 := lane h 0; let h1 := lane h 1; let h2 := lane h 2; let h3 := lane h 3
  let h4 := lane h 4; let h5 := lane h 5; let h6 := lane h 6; let h7 := lane h 7
  let h8 := lane h 8; let h9 := lane h 9; let h10 := lane h 10; let h11 := lane h 11
  let h0 := h0 + lane d 0; let h2 := h2 ^^^ h10; let h11 := h11 ^^^ h0; let h0 := rol h0 11; let h11 := h11 + h1
  let h1 := h1 + lane d 1; let h3 := h3 ^^^ h11; let h0 := h0 ^^^ h1; let h1 := rol h1 32; let h0 := h0 + h2
  let h2 := h2 + lane d 2; let h4 := h4 ^^^ h0; let h1 := h1 ^^^ h2; let h2 := rol h2 43; let h1 := h1 + h3
  let h3 := h3 + lane d 3; let h5 := h5 ^^^ h1; let h2 := h2 ^^^ h3; let h3 := rol h3 31; let h2 := h2 + h4
  let h4 := h4 + lane d 4; let h6 := h6 ^^^ h2; let h3 := h3 ^^^ h4; let h4 := rol h4 17; let h3 := h3 + h5
  let h5 := h5 + lane d 5; let h7 := h7 ^^^ h3; let h4 := h4 ^^^ h5; let h5 := rol h5 28; let h4 := h4 + h6
  let h6 := h6 + lane d 6; let h8 := h8 ^^^ h4; let h5 := h5 ^^^ h6; let h6 := rol h6 39; let h5 := h5 + h7
  let h7 := h7 + lane d 7; let h9 := h9 ^^^ h5; let h6 := h6 ^^^ h7; let h7 := rol h7 57; let h6 := h6 + h8
  let h8 := h8 + lane d 8; let h10 := h10 ^^^ h6; let h7 := h7 ^^^ h8; let h8 := rol h8 55; let h7 := h7 + h9
  let h9 := h9 + lane d 9; let h11 := h11 ^^^ h7; let h8 := h8 ^^^ h9; let h9 := rol h9 54; let h8 := h8 + h10
  let h10 := h10 + lane d 10; let h0 := h0 ^^^ h8; let h9 := h9 ^^^ h10; let h10 := rol h10 22; let h9 := h9 + h11
  let h11 := h11 + lane d 11; let h1 := h1 ^^^ h9; let h10 := h10 ^^^ h11; let h11 := rol h11 46; let h10 := h10 + h0
  #v[h0, h1, h2, h3, h4, h5, h6, h7, h8, h9, h10, h11]

/-- The thirty-six statements of EndPartial, one line per `i`, left to right (R92). -/
def endPartialUnrolled (h : Lanes) : Lanes :=
  let h0 := lane h 0; let h1 := lane h 1; let h2 := lane h 2; let h3 := lane h 3
  let h4 := lane h 4; let h5 := lane h 5; let h6 := lane h 6; let h7 := lane h 7
  let h8 := lane h 8; let h9 := lane h 9; let h10 := lane h 10; let h11 := lane h 11
  let h11 := h11 + h1; let h2 := h2 ^^^ h11; let h1 := rol h1 44
  let h0 := h0 + h2; let h3 := h3 ^^^ h0; let h2 := rol h2 15
  let h1 := h1 + h3; let h4 := h4 ^^^ h1; let h3 := rol h3 34
  let h2 := h2 + h4; let h5 := h5 ^^^ h2; let h4 := rol h4 21
  let h3 := h3 + h5; let h6 := h6 ^^^ h3; let h5 := rol h5 38
  let h4 := h4 + h6; let h7 := h7 ^^^ h4; let h6 := rol h6 33
  let h5 := h5 + h7; let h8 := h8 ^^^ h5; let h7 := rol h7 10
  let h6 := h6 + h8; let h9 := h9 ^^^ h6; let h8 := rol h8 13
  let h7 := h7 + h9; let h10 := h10 ^^^ h7; let h9 := rol h9 38
  let h8 := h8 + h10; let h11 := h11 ^^^ h8; let h10 := rol h10 53
  let h9 := h9 + h11; let h0 := h0 ^^^ h9; let h11 := rol h11 42
  let h10 := h10 + h0; let h1 := h1 ^^^ h10; let h0 := rol h0 54
  #v[h0, h1, h2, h3, h4, h5, h6, h7, h8, h9, h10, h11]

/-- `K`, the rotations of ShortMix (R96). -/
def shortMixRotations : List Nat := [50, 52, 30, 41, 54, 48, 38, 37, 62, 34, 5, 36]

/-- `F`, the rotations of ShortEnd (R96). -/
def shortEndRotations : List Nat := [15, 52, 26, 51, 28, 9, 47, 54, 32, 25, 63]

/-- Four lanes as `v = [a, b, c, d]`. -/
def ofQuad (q : Quad) : Vector Word 4 := #v[q.a, q.b, q.c, q.d]

/-- The indexed form of ShortMix from step `j` on: with `t = (j + 2) % 4`, rotate, add the next lane, exclusive-or into the
one after (R94). -/
def shortMixIndexed : Nat → List Nat → Vector Word 4 → Vector Word 4
  | _, [], v => v
  | j, k :: ks, v =>
    let t : Fin 4 := Fin.ofNat 4 (j + 2)
    let u : Fin 4 := t + 1
    let w : Fin 4 := t + 2
    let v := v.set t (rol v[t] k)
    let v := v.set t (v[t] + v[u])
    let v := v.set w (v[w] ^^^ v[t])
    shortMixIndexed (j + 1) ks v

/-- The regrouped form of ShortEnd from step `j` on: with `x = (j + 3) % 4` and `y = (j + 2) % 4` (R95). -/
def shortEndIndexed : Nat → List Nat → Vector Word 4 → Vector Word 4
  | _, [], v => v
  | j, k :: ks, v =>
    let x : Fin 4 := Fin.ofNat 4 (j + 3)
    let y : Fin 4 := Fin.ofNat 4 (j + 2)
    let v := v.set x (v[x] ^^^ v[y])
    let v := v.set y (rol v[y] k)
    let v := v.set x (v[x] + v[y])
    shortEndIndexed (j + 1) ks v

/-- The `while L − p ≥ 32` loop of the short path with its cursor `p`; `fuel` bounds the turns (R111). -/
def shortBody (pay : List Byte) (len : Nat) : Nat → Nat → Quad → Nat × Quad
  | 0, p, q => (p, q)
  | fuel + 1, p, q =>
    if len - p ≥ 32 then
      let q := shortMix { q with c := q.c + le64 pay p, d := q.d + le64 pay (p + 8) }
      let q := { q with a := q.a + le64 pay (p + 16), b := q.b + le64 pay (p + 24) }
      shortBody pay len fuel (p + 32) q
    else (p, q)

/-- `sum over i in [lo, lo + n) of zext_64(Pay[p+i]) << (8·(i − lo))` (R111). -/
def tailSum (pay : List Byte) (p lo n : Nat) : Word :=
  ((List.range n).map fun j => (pay.getD (p + (lo + j)) 0#8).zeroExtend 64 <<< (8 * j)).sum

/-- The pseudocode of the short path (R111). -/
def shortPseudocode (pay : List Byte) (seed1 seed2 : Word) : Word × Word :=
  let len := pay.length
  let (p, q) := shortBody pay len len 0 { a := seed1, b := seed2, c := Config.sc, d := Config.sc }
  let rem := len - p
  let (p, rem, q) :=
    if rem ≥ 16 then
      (p + 16, rem - 16, shortMix { q with c := q.c + le64 pay p, d := q.d + le64 pay (p + 8) })
    else (p, rem, q)
  let d := q.d + (BitVec.ofNat 64 len <<< 56)
  let c := q.c + tailSum pay p 0 (min rem 8)
  let d := d + tailSum pay p 8 (rem - 8)
  let c := if rem = 0 then c + Config.sc else c
  let d := if rem = 0 then d + Config.sc else d
  let q := shortEnd { a := q.a, b := q.b, c := c, d := d }
  (q.a, q.b)

/-- The final block of the long path, byte by byte (R114): the tail, zeros to byte 95, the count. -/
def finalBlock (tail : List Byte) : List Byte :=
  (List.range 96).map fun j =>
    if j < tail.length then tail.getD j 0#8 else if j < 95 then 0#8 else BitVec.ofNat 8 tail.length

/-- The pseudocode of the long path: block `k` is `Pay[96·k, 96·k + 96)` (R113). -/
def longPseudocode (pay : List Byte) (seed1 seed2 : Word) : Word × Word :=
  let n := pay.length / 96
  let h := (List.range n).foldl (fun h k => mixBlock h (lanes12 ((pay.drop (96 * k)).take 96))) (seedInit seed1 seed2)
  let h := endFinal h (lanes12 (finalBlock (pay.drop (96 * n))))
  (lane h 0, lane h 1)

/-- The digest of a present message: the short path below 192 bytes, the long path from there (R115). -/
def digest (pay : List Byte) (seed1 seed2 : Word) : Word × Word :=
  if pay.length < 192 then shortPseudocode pay seed1 seed2 else longPseudocode pay seed1 seed2

/-- A response with status OK (R66). -/
def okResponse (result : List Byte) : Frame := [0, 0, 0, 0] ++ result

/-- `f` is a frame of this row of the table: the header has the row's match under its mask (R68), the fixed part is
there, and the length is the `n` of R63, or `LEN` is negative and the length is not looked at (R67 step 6). -/
abbrev IsFrameOf (o : Opcode) (f : Frame) : Prop :=
  4 ≤ f.length ∧ header f &&& o.tableMask = o.tableMatch ∧ o.format.fixedPart ≤ f.length ∧
  if o.format.carriesRange = true ∧ headerP (header f) = true then
    2 ^ 31 ≤ (lenField o f).toNat ∨ f.length = o.format.fixedPart + (lenField o f).toNat
  else f.length = o.format.fixedPart

end Sys2Proof.SpecForms
end

