-- ==== Sys2Proof/Certificates/Slice0/Obligations.lean ====
section
/-! DEFINITION. The statements about the model, for the provers. Each docstring says which rules of spec/ it formalises. A
statement says "completes" by an equation `exec i s = .next …`; `RespondsOnly i s frame` is such an equation whose next
state is `s` with one response more and everything else, every byte of the buffer included, as it was. -/

open Sys2Proof Sys2Proof.Machine Sys2Proof.SpecForms

/-! ### Frames and commands -/

/-- Every well-formed command is read back from its own encoding, whatever its operands (R61 to R65, R67, R68). -/
def Obligations.DecodeOfEncode : Prop :=
  ∀ i : Instr, i.wellFormed = true → decode (encode i) = .ok i

/-- Every frame that decodes gives a well-formed command whose encoding the frame starts with; it is the whole frame unless
`LEN` is negative, when nothing after the fixed part is looked at (R63, R64, R67). -/
def Obligations.EncodeOfDecode : Prop :=
  ∀ (f : Frame) (i : Instr), decode f = .ok i →
    i.wellFormed = true ∧ encode i <+: f ∧
    ((∀ len, i.range? ≠ some (.negative len)) → encode i = f)

/-- The decoder's tests and the table's match, mask and frame lengths say the same: a frame decodes to a command of a row
exactly if it is a frame of that row (R67, R68, R70). -/
def Obligations.DecodeFollowsTable : Prop :=
  ∀ (f : Frame) (o : Opcode), (∃ i, decode f = .ok i ∧ i.opcode = o) ↔ IsFrameOf o f

/-- The worked frames of R73, commands and responses. -/
def Obligations.WorkedFramesOfTheSpec : Prop :=
  decode [0x01, 0, 0, 0, 0xEF, 0xBE, 0xAD, 0xDE, 0xEF, 0xBE, 0xAD, 0xDE, 0xEF, 0xBE, 0xAD, 0xDE, 0xEF, 0xBE, 0xAD, 0xDE]
      = .ok (.init 0xDEADBEEFDEADBEEF 0xDEADBEEFDEADBEEF) ∧
  decode [0x02, 0x01, 0, 0, 0x01, 0, 0, 0, 0x61] = .ok (.update (.present [0x61])) ∧
  decode [0x02, 0x01, 0, 0, 0, 0, 0, 0] = .ok (.update (.present [])) ∧
  decode [0x02, 0, 0, 0, 0, 0, 0, 0] = .ok (.update (.absent 0)) ∧
  decode [0x03, 0, 0, 0] = .ok .final ∧
  decode [0x11, 0x01, 0, 0, 0xEF, 0xBE, 0xAD, 0xDE, 0xEF, 0xBE, 0xAD, 0xDE, 0x03, 0, 0, 0, 0x61, 0x62, 0x63]
      = .ok (.hash64 (.present [0x61, 0x62, 0x63]) 0xDEADBEEFDEADBEEF) ∧
  decode [0x10, 0, 0, 0, 0xEF, 0xBE, 0xAD, 0xDE, 0xEF, 0xBE, 0xAD, 0xDE, 0xEF, 0xBE, 0xAD, 0xDE, 0xEF, 0xBE, 0xAD, 0xDE,
      0x05, 0, 0, 0] = .ok (.hash128 (.absent 5) 0xDEADBEEFDEADBEEF 0xDEADBEEFDEADBEEF) ∧
  okFrame (bytesOfDigest (0x5290ECB05BC3824D, 0x13DAB09FA4478011)) =
    [0, 0, 0, 0, 0x4D, 0x82, 0xC3, 0x5B, 0xB0, 0xEC, 0x90, 0x52, 0x11, 0x80, 0x47, 0xA4, 0x9F, 0xB0, 0xDA, 0x13] ∧
  errorFrame .nullInput = [0x01, 0, 0, 0]

/-! ### The step -/

/-- When the next input is a frame that decodes, the step is the command's meaning on the state with that input taken
(R60, R186; the input list is the model's own field, notes/assumptions/1.md). -/
def Obligations.StepRunsDecodedCommand : Prop :=
  ∀ (s : State) (f : Frame) (rest : List Input) (i : Instr),
    s.inbox = .command f :: rest → decode f = .ok i → i.wellFormed = true → step s = exec i { s with inbox := rest }

/-- R70, R163: a frame of no row of the table is answered IllegalCommand and nothing else changes. -/
def Obligations.FramesOutsideTheTableAreIllegal : Prop :=
  ∀ (s : State) (f : Frame) (rest : List Input),
    s.inbox = .command f :: rest → (∀ o, ¬ IsFrameOf o f) →
    step s = .next { s with inbox := rest, responses := s.responses ++ [[0x03, 0, 0, 0]] }

/-- R60, R172, R187, R188: from a state with the invariant no step stops, and a command frame is taken with exactly one
response, whatever its bytes. -/
def Obligations.EveryFrameGetsOneResponse : Prop :=
  ∀ s : State, s.Inv →
    (∃ t, step s = .next t) ∧
    ∀ (f : Frame) (rest : List Input), s.inbox = .command f :: rest →
      ∃ t r, step s = .next t ∧ t.responses = s.responses ++ [r] ∧ t.inbox = rest

/-- R24, R25, R46: the invariant (`remainder ≤ 191`, `length ≤ 2^31 − 1`, the buffer canonical and within 192 cells) is
kept by every step, commands, resets and refused frames alike. -/
def Obligations.StepKeepsInvariant : Prop :=
  ∀ s t : State, s.Inv → step s = .next t → t.Inv

/-- The invariant holds right after reset, the counters are consistent, and the registers R34 gives a value hold it. The
cells R34 leaves open are not spoken of. -/
def Obligations.ResetStateHasInvariant : Prop :=
  State.reset.Inv ∧ State.reset.Consistent ∧ State.reset.length = 0 ∧ State.reset.remainder = 0 ∧
  lane State.reset.acc 0 = 0xDEADBEEFDEADBEEF ∧ lane State.reset.acc 1 = 0xDEADBEEFDEADBEEF

/-- R180, R181: a reset leaves `length`, `remainder`, `s[0]`, `s[1]` at their values and every other cell at whatever the
draw has, for every draw, and produces no response. -/
def Obligations.ResetEventLeavesResetValues : Prop :=
  ∀ (s : State) (draw : ResetDraw) (rest : List Input),
    s.inbox = .reset draw :: rest → draw.buf.length = 192 →
    ∃ t, step s = .next t ∧ t.length = 0 ∧ t.remainder = 0 ∧
      lane t.acc 0 = 0xDEADBEEFDEADBEEF ∧ lane t.acc 1 = 0xDEADBEEFDEADBEEF ∧
      (∀ i : Fin 12, 2 ≤ i.val → lane t.acc i = lane draw.acc i) ∧
      (∀ k, k < 192 → t.buf.read k = draw.buf.getD k 0) ∧
      t.responses = s.responses ∧ t.inbox = rest

/-- R182: FINAL straight after a reset answers the digest of the empty message with seeds (SC, SC), whatever the reset
left in the cells R34 does not fix. -/
def Obligations.FinalStraightAfterReset : Prop :=
  ∀ (s : State) (draw : ResetDraw) (rest : List Input),
    s.inbox = .reset draw :: .command [0x03, 0, 0, 0] :: rest →
    ∃ t u, step s = .next t ∧ step t = .next u ∧
      u = { t with
              inbox := rest
              responses := s.responses ++ [[0, 0, 0, 0, 0x5A, 0xAB, 0x8D, 0x11, 0xF3, 0x95, 0x66, 0x69,
                0xE0, 0xEB, 0x67, 0xCB, 0xCE, 0x3A, 0xF3, 0x86]] }

/-! ### Bytes, lanes, the buffer -/

/-- R10: ROL is the two shifts, bit `j` moves to bit `(j + k) mod 64`, and every rotation count used is between 5 and 63. -/
def Obligations.RolMovesBits : Prop :=
  (∀ (x : Word) (k : Nat), 0 < k → k < 64 →
    (rol x k).toNat = (x.toNat * 2 ^ k % 2 ^ 64) ||| (x.toNat / 2 ^ (64 - k)) ∧
    ∀ j, j < 64 → (rol x k).getLsbD ((j + k) % 64) = x.getLsbD j) ∧
  ∀ k ∈ mixRotations.toList ++ endRotations.toList ++ shortMixRotations ++ shortEndRotations, 5 ≤ k ∧ k ≤ 63

/-- R40: a lane is assembled from its eight bytes, the lowest offset least significant; the twelve lanes of a block stand at
offsets 0, 8, …, 88. -/
def Obligations.LanesAreLittleEndian : Prop :=
  (∀ (b : List Byte) (off : Nat), off + 8 ≤ b.length → le64 b off = le64Formula b off) ∧
  (∀ (block : List Byte) (i : Fin 12), lane (lanes12 block) i = le64 block (8 * i.val)) ∧
  le64 [0x01, 0x02, 0x03, 0x04, 0x05, 0x06, 0x07, 0x08] 0 = 0x0807060504030201

/-- R11: `zext_64(L) << 56` is the low byte of `L` in bits 63:56, and truncating a tail count below 96 to a byte loses
nothing. -/
def Obligations.LengthByteOnTop : Prop :=
  (∀ len : Nat, (lengthByte len).toNat = (len % 256) * 2 ^ 56) ∧
  ∀ rem : Nat, rem < 96 → (BitVec.ofNat 8 rem).toNat = rem

/-- R112: `h[i]` of SeedInit is seed1, seed2, SC by `i mod 3`. -/
def Obligations.SeedInitPattern : Prop :=
  ∀ (seed1 seed2 : Word) (i : Fin 12),
    lane (seedInit seed1 seed2) i =
      if i.val % 3 = 0 then seed1 else if i.val % 3 = 1 then seed2 else 0xDEADBEEFDEADBEEF

/-- R114: the padded final block byte by byte, its 96 bytes, its count in bits 63:56 of lane 11. -/
def Obligations.PadBlockLayout : Prop :=
  ∀ t : List Byte, t.length ≤ 95 →
    padBlock t = finalBlock t ∧ (padBlock t).length = 96 ∧
    (lane (lanes12 (padBlock t)) 11).extractLsb' 56 8 = BitVec.ofNat 8 t.length

/-- R44: BufWrite sets the cells it names and no other; BufRead answers the cells it names. -/
def Obligations.BufferReadsAndWrites : Prop :=
  ∀ m : Memory, m.wf →
    (∀ (off : Nat) (bytes : List Byte), off + bytes.length ≤ 192 →
      ∃ m', bufWrite m off bytes = .ok m' ∧ m'.wf ∧
        ∀ k, m'.read k = if off ≤ k ∧ k < off + bytes.length then bytes.getD (k - off) 0 else m.read k) ∧
    ∀ off n : Nat, off + n ≤ 192 →
      ∃ bytes, bufRead m off n = .ok bytes ∧ bytes.length = n ∧ ∀ k, k < n → bytes.getD k 0 = m.read (off + k)

/-- The model's own form of the buffer (notes/assumptions/6.md): canonical buffers that read the same are the same data. -/
def Obligations.CanonicalBuffersAreEqual : Prop :=
  ∀ m m' : Memory, m.wf → m'.wf → (∀ k, k < 192 → m.read k = m'.read k) → m = m'

/-! ### The mixing primitives -/

/-- R91: MIXBLOCK answers the twelve lanes of the sixty statements of the unrolled listing; nothing else changes. -/
def Obligations.MixblockRunsItsListing : Prop :=
  ∀ (h : Lanes) (block : List Byte) (s : State),
    RespondsOnly (.mixblock h block) s (okResponse (bytesOfLanes (mixBlockUnrolled h (lanes12 block))))

/-- R92: ENDPARTIAL answers the twelve lanes of the thirty-six statements of the unrolled listing; nothing else changes. -/
def Obligations.EndpartialRunsItsListing : Prop :=
  ∀ (h : Lanes) (s : State),
    RespondsOnly (.endpartial h) s (okResponse (bytesOfLanes (endPartialUnrolled h)))

/-- R93: END answers three rounds of EndPartial over the lane-wise sums; nothing else changes. -/
def Obligations.EndAddsThenFinishes : Prop :=
  ∀ (h : Lanes) (block : List Byte) (s : State),
    RespondsOnly (.endMix h block) s (okResponse (bytesOfLanes
      (endPartialUnrolled (endPartialUnrolled (endPartialUnrolled
        (Vector.ofFn fun i => lane h i + lane (lanes12 block) i))))))

/-- R94: SHORTMIX answers the four lanes of the indexed form with the twelve rotations `K`; nothing else changes. -/
def Obligations.ShortmixRunsIndexedForm : Prop :=
  ∀ (q : Quad) (s : State),
    RespondsOnly (.shortmix q) s
      (okResponse ((shortMixIndexed 0 shortMixRotations (ofQuad q)).toList.flatMap bytesOf64))

/-- R95: SHORTEND answers the four lanes of the regrouped form with the eleven rotations `F`; nothing else changes. -/
def Obligations.ShortendRunsIndexedForm : Prop :=
  ∀ (q : Quad) (s : State),
    RespondsOnly (.shortend q) s
      (okResponse ((shortEndIndexed 0 shortEndRotations (ofQuad q)).toList.flatMap bytesOf64))

/-- R90: every primitive is a bijection on its lanes for fixed data lanes. -/
def Obligations.PrimitivesAreBijections : Prop :=
  (∀ d, Function.Bijective fun h => mixBlock h d) ∧ Function.Bijective endPartial ∧
  (∀ d, Function.Bijective fun h => endFinal h d) ∧ Function.Bijective shortMix ∧ Function.Bijective shortEnd

/-- R93's corner case: End depends on its two operands only through their lane-wise sum. -/
def Obligations.EndDependsOnSum : Prop :=
  ∀ h d : Lanes, endFinal h d = endFinal d h ∧
    endFinal h d = endFinal (Vector.ofFn fun i => lane h i + lane d i) (Vector.replicate 12 0)

/-! ### The one-shot engine -/

/-- R111: SHORT answers the digest of the short path's pseudocode for every payload; nothing else changes. -/
def Obligations.ShortRunsItsPseudocode : Prop :=
  ∀ (m : List Byte) (seed1 seed2 : Word) (s : State), m.length < 2 ^ 31 →
    RespondsOnly (.short (.present m) seed1 seed2) s (okResponse (bytesOfDigest (shortPseudocode m seed1 seed2)))

/-- R113: LONG answers the digest of the long path's pseudocode for every payload; nothing else changes. -/
def Obligations.LongRunsItsPseudocode : Prop :=
  ∀ (m : List Byte) (seed1 seed2 : Word) (s : State), m.length < 2 ^ 31 →
    RespondsOnly (.long (.present m) seed1 seed2) s (okResponse (bytesOfDigest (longPseudocode m seed1 seed2)))

/-- R115: HASH128 answers (0, 0) for an absent range whatever `LEN`, the short path below 192 bytes and the long path from
192; nothing else changes. -/
def Obligations.Hash128Dispatches : Prop :=
  ∀ (seed1 seed2 : Word) (s : State),
    (∀ len, RespondsOnly (.hash128 (.absent len) seed1 seed2) s (okResponse (bytesOfDigest (0, 0)))) ∧
    (∀ m : List Byte, m.length < 192 →
      RespondsOnly (.hash128 (.present m) seed1 seed2) s (okResponse (bytesOfDigest (shortPseudocode m seed1 seed2)))) ∧
    ∀ m : List Byte, 192 ≤ m.length → m.length < 2 ^ 31 →
      RespondsOnly (.hash128 (.present m) seed1 seed2) s (okResponse (bytesOfDigest (longPseudocode m seed1 seed2)))

/-- R116, R118 (2): HASH64 answers the first half of the 128-bit digest with both seeds equal, and 0 for an absent range. -/
def Obligations.Hash64IsFirstHalf : Prop :=
  ∀ (seed : Word) (s : State),
    (∀ len, RespondsOnly (.hash64 (.absent len) seed) s (okResponse (bytesOf64 0))) ∧
    ∀ m : List Byte, m.length < 2 ^ 31 →
      RespondsOnly (.hash64 (.present m) seed) s (okResponse (bytesOf64 (digest m seed seed).1))

/-- R117, R118 (3): HASH32 answers bits 31:0 of the 64-bit digest, and 0 for an absent range. -/
def Obligations.Hash32IsLowHalf : Prop :=
  ∀ (seed : Word) (s : State),
    (∀ len, RespondsOnly (.hash32 (.absent len) seed) s (okResponse (bytesOf32 0))) ∧
    ∀ m : List Byte, m.length < 2 ^ 31 →
      RespondsOnly (.hash32 (.present m) seed) s
        (okResponse (bytesOf32 (BitVec.ofNat 32 ((digest m seed seed).1.toNat % 2 ^ 32))))

/-- R65, R162 (a): each of the six commands with a byte range rejects a negative `LEN` with RangeOutOfBounds and changes
nothing. -/
def Obligations.NegativeLenIsRejected : Prop :=
  ∀ (i : Instr) (len : BitVec 32) (s : State), i.range? = some (.negative len) → RespondsOnly i s [0x02, 0, 0, 0]

/-- R68, R118 (1), R171: a pure command's response is a function of its frame alone, and it changes nothing else. -/
def Obligations.PureCommandsIgnoreTheState : Prop :=
  ∀ i : Instr, isPure i = true → ∃ r, ∀ s : State, RespondsOnly i s r

/-! ### The streaming hasher -/

/-- R131: INIT's encoding, the four writes and the frame, and FINAL straight after it. -/
def Obligations.InitStartsAStream : Prop :=
  ∀ (seed1 seed2 : Word) (s : State),
    encode (.init seed1 seed2) = [0x01, 0, 0, 0] ++ bytesOf64 seed1 ++ bytesOf64 seed2 ∧
    ∃ t, exec (.init seed1 seed2) s = .next t ∧
      t.length = 0 ∧ t.remainder = 0 ∧ lane t.acc 0 = seed1 ∧ lane t.acc 1 = seed2 ∧
      (∀ i : Fin 12, 2 ≤ i.val → lane t.acc i = lane s.acc i) ∧ t.buf = s.buf ∧
      t.responses = s.responses ++ [[0, 0, 0, 0]] ∧ t.inbox = s.inbox ∧
      RespondsOnly .final t (okResponse (bytesOfDigest (shortPseudocode [] seed1 seed2)))

/-- R132 step 1: an UPDATE that fits appends its bytes at `buf[remainder..]` and adds to both counters; the accumulators
and every other cell stay. -/
def Obligations.UpdateShortRoute : Prop :=
  ∀ (s : State) (m : List Byte), s.Inv → s.length.toNat + m.length ≤ 2147483647 →
    m.length + s.remainder.toNat < 192 →
    ∃ t, exec (.update (.present m)) s = .next t ∧
      t.length.toNat = s.length.toNat + m.length ∧ t.remainder.toNat = s.remainder.toNat + m.length ∧ t.acc = s.acc ∧
      (∀ k, t.buf.read k =
        if s.remainder.toNat ≤ k ∧ k < s.remainder.toNat + m.length then m.getD (k - s.remainder.toNat) 0
        else s.buf.read k) ∧
      t.responses = s.responses ++ [[0, 0, 0, 0]] ∧ t.inbox = s.inbox

/-- R132 steps 2 to 7, R141: an UPDATE that does not fit absorbs every whole block of the buffered bytes followed by the
payload, from the seeded lanes at the crossing and from the accumulators after it; the tail goes to the front of the
buffer, and above it stand the bytes step 4 copied there; every other cell stays. -/
def Obligations.UpdateLongRoute : Prop :=
  ∀ (s : State) (m : List Byte), s.Inv → s.length.toNat + m.length ≤ 2147483647 →
    192 ≤ m.length + s.remainder.toNat →
    ∃ t, exec (.update (.present m)) s = .next t ∧
      t.length.toNat = s.length.toNat + m.length ∧
      t.remainder.toNat = (s.remainder.toNat + m.length) % 96 ∧
      t.acc = absorbBlocks ((s.remainder.toNat + m.length) / 96) (s.buf.readBytes 0 s.remainder.toNat ++ m)
        (if s.length.toNat < 192 then seedInit (lane s.acc 0) (lane s.acc 1) else s.acc) ∧
      (∀ k, t.buf.read k =
        if k < t.remainder.toNat then m.getD (m.length - t.remainder.toNat + k) 0
        else if 0 < s.remainder.toNat ∧ s.remainder.toNat ≤ k ∧ k < 192 then m.getD (k - s.remainder.toNat) 0
        else s.buf.read k) ∧
      t.responses = s.responses ++ [[0, 0, 0, 0]] ∧ t.inbox = s.inbox

/-- R140 (1): UPDATE of the empty range answers OK and changes nothing else. -/
def Obligations.EmptyUpdateChangesNothing : Prop :=
  ∀ s : State, s.Inv → RespondsOnly (.update (.present [])) s [0, 0, 0, 0]

/-- R133: an UPDATE that would take `length` above 2^31 − 1 answers LengthOverflow and changes nothing; FINAL after it
answers what it answered before it (the bytes accepted so far), and INIT still starts a stream; any other UPDATE adds to
`length` exactly, without wrapping. -/
def Obligations.LengthNeverPassesTheCap : Prop :=
  ∀ (s : State) (m : List Byte), s.Inv → m.length < 2 ^ 31 →
    (s.length.toNat + m.length > 2147483647 →
      RespondsOnly (.update (.present m)) s [0x04, 0, 0, 0] ∧
      (∃ d, RespondsOnly .final s (okResponse (bytesOfDigest d)) ∧
        RespondsOnly .final { s with responses := s.responses ++ [[0x04, 0, 0, 0]] } (okResponse (bytesOfDigest d))) ∧
      ∀ seed1 seed2, ∃ t, exec (.init seed1 seed2) s = .next t ∧ t.length = 0) ∧
    (s.length.toNat + m.length ≤ 2147483647 →
      ∃ t, exec (.update (.present m)) s = .next t ∧ t.length.toNat = s.length.toNat + m.length)

/-- R134: FINAL's short finish below 192 bytes and its long finish from there; nothing else changes. -/
def Obligations.FinalFinishes : Prop :=
  ∀ s : State, s.Inv →
    (s.length.toNat < 192 →
      RespondsOnly .final s (okResponse (bytesOfDigest
        (shortPseudocode (s.buf.readBytes 0 s.length.toNat) (lane s.acc 0) (lane s.acc 1))))) ∧
    (192 ≤ s.length.toNat → s.remainder.toNat < 96 →
      let h := endFinal s.acc (lanes12 (finalBlock (s.buf.readBytes 0 s.remainder.toNat)))
      RespondsOnly .final s (okResponse (bytesOfDigest (lane h 0, lane h 1)))) ∧
    (192 ≤ s.length.toNat → 96 ≤ s.remainder.toNat →
      let h := endFinal (mixBlock s.acc (lanes12 (s.buf.readBytes 0 96)))
        (lanes12 (finalBlock (s.buf.readBytes 96 (s.remainder.toNat - 96))))
      RespondsOnly .final s (okResponse (bytesOfDigest (lane h 0, lane h 1))))

/-- R135: FINAL changes nothing but the response port; a second one answers the same (a); one between two UPDATEs leaves
the digest of the whole stream what it is (b). -/
def Obligations.FinalIsIdempotentAndNonDestructive : Prop :=
  (∀ s : State, s.Inv → ∃ d,
    RespondsOnly .final s (okResponse (bytesOfDigest d)) ∧
    RespondsOnly .final { s with responses := s.responses ++ [okResponse (bytesOfDigest d)] }
      (okResponse (bytesOfDigest d))) ∧
  ∀ (s : State) (seed1 seed2 : Word) (x y : List Byte), s.Inv → x.length + y.length ≤ 2147483647 →
    ∃ t d, execAll [.init seed1 seed2, .update (.present x), .final, .update (.present y), .final] s = .next t ∧
      t.responses = s.responses ++
        [[0, 0, 0, 0], [0, 0, 0, 0], okResponse (bytesOfDigest d), [0, 0, 0, 0],
         okResponse (bytesOfDigest (digest (x ++ y) seed1 seed2))]

/-- R137, R139: SAVE answers the 296-byte image: the 192 buffer bytes, the twelve lanes, the two counters, each where the
table puts it; nothing else changes. -/
def Obligations.SaveShowsTheImage : Prop :=
  ∀ s : State, ∃ im, RespondsOnly .save s (okResponse im) ∧ im.length = 296 ∧
    (∀ k, k < 192 → im.getD k 0 = s.buf.read k) ∧
    (∀ i : Fin 12, le64 im (192 + 8 * i.val) = lane s.acc i) ∧
    le32 im 288 = s.length ∧ (le32 im 292).toNat = s.remainder.toNat

/-- R138: RESTORE rejects a negative `length` and a `remainder` outside 0..191 and changes nothing; any other image is
written whole. -/
def Obligations.RestoreChecksThenWritesAll : Prop :=
  ∀ (s : State) (im : List Byte), s.Inv → im.length = 296 →
    ((2 ^ 31 ≤ (le32 im 288).toNat ∨ 192 ≤ (le32 im 292).toNat) → RespondsOnly (.restore im) s [0x02, 0, 0, 0]) ∧
    ((le32 im 288).toNat < 2 ^ 31 → (le32 im 292).toNat < 192 →
      ∃ t, exec (.restore im) s = .next t ∧
        (∀ k, k < 192 → t.buf.read k = im.getD k 0) ∧ t.buf.wf ∧
        (∀ i : Fin 12, lane t.acc i = le64 im (192 + 8 * i.val)) ∧
        t.length = le32 im 288 ∧ t.remainder.toNat = (le32 im 292).toNat ∧
        t.responses = s.responses ++ [[0, 0, 0, 0]] ∧ t.inbox = s.inbox)

/-- R138's corner case 1, R139, R183: an image taken by SAVE and given to RESTORE, on this or another instance, brings back
exactly the saved state. -/
def Obligations.SaveThenRestoreResumes : Prop :=
  ∀ s t : State, s.Inv → t.Inv →
    ∃ im u, RespondsOnly .save s (okResponse im) ∧ exec (.restore im) t = .next u ∧ SameHardware s u

/-- R26, R27 (v) to (vii): INIT begins a stream, and every accepted UPDATE appends its payload to it. -/
def Obligations.UpdateExtendsTheStream : Prop :=
  (∀ (s : State) (seed1 seed2 : Word), ∃ t, exec (.init seed1 seed2) s = .next t ∧ Absorbed seed1 seed2 [] t) ∧
  ∀ (s : State) (seed1 seed2 : Word) (msg m : List Byte),
    s.Inv → Absorbed seed1 seed2 msg s → msg.length + m.length ≤ 2147483647 →
    ∃ t, exec (.update (.present m)) s = .next t ∧ Absorbed seed1 seed2 (msg ++ m) t

/-- R130, R140 (3) and (4): FINAL answers the one-shot digest of the stream the state stands for. -/
def Obligations.FinalDigestsTheStream : Prop :=
  ∀ (s : State) (seed1 seed2 : Word) (msg : List Byte), s.Inv → Absorbed seed1 seed2 msg s →
    RespondsOnly .final s (okResponse (bytesOfDigest (digest msg seed1 seed2)))

/-- R136: for every cutting of a byte stream into present chunks, INIT, the UPDATEs and FINAL all answer OK, and FINAL's
response is the one HASH128 gives for the whole stream. -/
def Obligations.StreamEqualsOneShot : Prop :=
  ∀ (s : State) (seed1 seed2 : Word) (chunks : List (List Byte)),
    s.Inv → chunks.flatten.length ≤ 2147483647 →
    ∃ t r, execAll (.init seed1 seed2 :: chunks.map (fun c => .update (.present c)) ++ [.final]) s = .next t ∧
      t.responses = s.responses ++ List.replicate (chunks.length + 1) [0, 0, 0, 0] ++ [r] ∧
      RespondsOnly (.hash128 (.present chunks.flatten) seed1 seed2) s r

/-- R136, R140: cutting one UPDATE in two leaves the same `length` and the same digest, from every state with consistent
counters. (That the two also leave the same `remainder`, as R140 (2) says, is the next statement.) -/
def Obligations.SplitUpdateSameDigest : Prop :=
  ∀ (s : State) (x y : List Byte), s.Inv → s.Consistent →
    s.length.toNat + x.length + y.length ≤ 2147483647 →
    ∃ t u v r, exec (.update (.present (x ++ y))) s = .next t ∧
      exec (.update (.present x)) s = .next u ∧ exec (.update (.present y)) u = .next v ∧
      t.length = v.length ∧ RespondsOnly .final t r ∧ RespondsOnly .final v r

/-- R140 (2) as it is worded: the same `remainder` after one UPDATE and after its two parts. EXPECTED TO FAIL: by R132 an
UPDATE on the long route leaves `remainder ≤ 95` while a later one on the short route can raise it to 191 (R132 corner case
5), so 342 bytes at once leave 54 and 192 then 150 leave 150. The model follows R132 (notes/assumptions/19.md). -/
def Obligations.SplitUpdateSameRemainder : Prop :=
  ∀ (s t u v : State) (x y : List Byte), s.Inv → s.Consistent →
    s.length.toNat + x.length + y.length ≤ 2147483647 →
    exec (.update (.present (x ++ y))) s = .next t →
    exec (.update (.present x)) s = .next u → exec (.update (.present y)) u = .next v →
    t.remainder = v.remainder

/-- R27 (viii): stale cells never show, except through SAVE. Two states that differ at most in stale cells answer every
other command alike and go on differing at most there (after RESTORE they are equal). -/
def Obligations.StaleCellsNeverShow : Prop :=
  ∀ (s t : State) (i : Instr), s.Inv → t.Inv → ((s.Consistent ∧ SameLive s t) ∨ SameHardware s t) →
    i.wellFormed = true → i ≠ .save →
    ∃ s' t' r, exec i s = .next s' ∧ exec i t = .next t' ∧
      s'.responses = s.responses ++ [r] ∧ t'.responses = t.responses ++ [r] ∧
      ((s'.Consistent ∧ SameLive s' t') ∨ SameHardware s' t')

/-- R27 (v), (vi): every command but RESTORE keeps the counters consistent. -/
def Obligations.CountersStayConsistent : Prop :=
  ∀ (s t : State) (i : Instr), s.Inv → s.Consistent → isRestore i = false → exec i s = .next t → t.Consistent

/-! ### Errors and frames -/

/-- R161, R162, R164: which well-formed command is answered with which error, and that every other one is answered OK.
IllegalCommand is no decoded command's answer. -/
def Obligations.EachErrorHasItsCause : Prop :=
  ∀ (s : State) (i : Instr), s.Inv → i.wellFormed = true →
    ∃ t r, exec i s = .next t ∧ t.responses = s.responses ++ [r] ∧
      (r = [0x01, 0, 0, 0] ↔ ∃ len, i = .update (.absent len)) ∧
      (r = [0x02, 0, 0, 0] ↔ (∃ len, i.range? = some (.negative len)) ∨
        ∃ im, i = .restore im ∧ (2 ^ 31 ≤ (le32 im 288).toNat ∨ 192 ≤ (le32 im 292).toNat)) ∧
      (r = [0x04, 0, 0, 0] ↔ ∃ m, i = .update (.present m) ∧ s.length.toNat + m.length > 2147483647) ∧
      ([0, 0, 0, 0] <+: r ∨ r = [0x01, 0, 0, 0] ∨ r = [0x02, 0, 0, 0] ∨ r = [0x04, 0, 0, 0])

/-- R166: the order of the checks, on frames: IllegalCommand before NullInput before RangeOutOfBounds before
LengthOverflow; every one leaves the state as it was. -/
def Obligations.ErrorPriority : Prop :=
  ∀ (s : State) (f : Frame) (rest : List Input), s.inbox = .command f :: rest →
    ((∀ o, ¬ IsFrameOf o f) →
      step s = .next { s with inbox := rest, responses := s.responses ++ [[0x03, 0, 0, 0]] }) ∧
    (IsFrameOf .update f → headerP (header f) = false →
      step s = .next { s with inbox := rest, responses := s.responses ++ [[0x01, 0, 0, 0]] }) ∧
    (∀ o, IsFrameOf o f → o.format.carriesRange = true → headerP (header f) = true → 2 ^ 31 ≤ (lenField o f).toNat →
      step s = .next { s with inbox := rest, responses := s.responses ++ [[0x02, 0, 0, 0]] }) ∧
    (IsFrameOf .restore f → (2 ^ 31 ≤ (le32 f 292).toNat ∨ 192 ≤ (le32 f 296).toNat) →
      step s = .next { s with inbox := rest, responses := s.responses ++ [[0x02, 0, 0, 0]] }) ∧
    (IsFrameOf .update f → headerP (header f) = true → (lenField .update f).toNat < 2 ^ 31 →
      s.length.toNat + (lenField .update f).toNat > 2147483647 →
      step s = .next { s with inbox := rest, responses := s.responses ++ [[0x04, 0, 0, 0]] })

/-- R160, R165: a response opens with a status 0 to 4 and three zero bytes; with a status other than 0 it ends there and
the command has changed nothing. -/
def Obligations.RejectedFrameChangesNothing : Prop :=
  ∀ (s t : State) (f : Frame) (rest : List Input), s.inbox = .command f :: rest → step s = .next t →
    ∃ (status : Byte) (body : List Byte),
      t.responses = s.responses ++ [[status, 0, 0, 0] ++ body] ∧ status.toNat ≤ 4 ∧
      (status ≠ 0 → body = [] ∧
        t = { s with inbox := rest, responses := s.responses ++ [[status, 0, 0, 0]] })

/-- R21, R23 to R25: only INIT, UPDATE and RESTORE write state; every command leaves what the host will present alone and
adds one response. -/
def Obligations.OnlyThreeCommandsWriteState : Prop :=
  ∀ (s t : State) (i : Instr), exec i s = .next t →
    t.inbox = s.inbox ∧ (∃ r, t.responses = s.responses ++ [r]) ∧
    ((∀ a b, i ≠ .init a b) → (∀ r, i ≠ .update r) → (∀ im, i ≠ .restore im) → SameHardware s t)

/-! ### What R132 makes of R140 (2) -/

/-- R140 (2) as far as R132 bears it out, and by how much it does not. One UPDATE of `x ++ y` (to `t`) and its two parts
(to `v`) leave the same `length`. If everything stays in the buffer, or the two parts leave `remainder < 96`, they also
leave the same `remainder`, `buf[0, remainder)` and accumulators. Otherwise the two parts leave exactly one block more in
the buffer, which the one UPDATE has already absorbed (R132 corner case 5; notes/assumptions/19.md). -/
def Obligations.SplitUpdateStateCompared : Prop :=
  ∀ (s : State) (x y : List Byte), s.Inv → s.Consistent →
    s.length.toNat + x.length + y.length ≤ 2147483647 →
    ∃ t u v, exec (.update (.present (x ++ y))) s = .next t ∧
      exec (.update (.present x)) s = .next u ∧ exec (.update (.present y)) u = .next v ∧
      t.length = v.length ∧
      if s.remainder.toNat + x.length + y.length < 192 ∨ v.remainder.toNat < 96 then
        t.remainder = v.remainder ∧ t.acc = v.acc ∧ ∀ k, k < v.remainder.toNat → t.buf.read k = v.buf.read k
      else
        v.remainder.toNat = t.remainder.toNat + 96 ∧
        t.acc = mixBlock v.acc (lanes12 (v.buf.readBytes 0 96)) ∧
        ∀ k, k < t.remainder.toNat → t.buf.read k = v.buf.read (96 + k)
end

