-- ==== Sys2Proof/Laws/Memory.lean ====
section
/-! SUPPORT. The staging buffer: read after write, what a write leaves alone, and that every operation keeps the canonical
form. -/

namespace Sys2Proof.Machine

/-- An address below every listed one is not listed. -/
theorem Memory.read_of_lt (m : Memory) (j : Nat) (h : ∀ c ∈ m, j < c.1) : m.read j = Config.unwrittenByte := by
  induction m with
  | nil => rfl
  | cons c m ih =>
    have hne : c.1 ≠ j := fun he => absurd (h c (by simp)) (by omega)
    simp only [Memory.read, hne, if_false]
    exact ih fun d hd => h d (List.mem_cons_of_mem _ hd)

/-- A byte reads back what was last written there, whatever else the list holds. -/
theorem Memory.read_write {m : Memory} (hs : m.Pairwise (fun c d => c.1 < d.1)) (k : Nat) (v : Byte) (j : Nat) :
    (m.write k v).read j = if j = k then v else m.read j := by
  induction m with
  | nil =>
    by_cases hv : v = Config.unwrittenByte <;> by_cases hj : j = k <;>
      simp_all [Memory.write, Memory.read, eq_comm]
  | cons c m ih =>
    obtain ⟨a, b⟩ := c
    have htail := (List.pairwise_cons.mp hs).2
    have hlt := (List.pairwise_cons.mp hs).1
    have hmiss : ∀ j, j ≤ a → Memory.read m j = Config.unwrittenByte := fun j hj =>
      Memory.read_of_lt m j fun c hc => lt_of_le_of_lt hj (hlt c hc)
    by_cases hka : k < a
    · by_cases hv : v = Config.unwrittenByte
      · have hne : ¬ a = k := by omega
        by_cases hj : j = k
        · subst hj
          simp [Memory.write, Memory.read, hka, hv, hne, hmiss j (by omega)]
        · simp [Memory.write, Memory.read, hka, hv, hj]
      · by_cases hj : j = k
        · subst hj
          simp [Memory.write, Memory.read, hka, hv]
        · have hjk : ¬ k = j := fun h => hj h.symm
          simp [Memory.write, Memory.read, hka, hv, hj, hjk]
    · by_cases hk : k = a
      · subst hk
        by_cases hv : v = Config.unwrittenByte
        · by_cases hj : j = k
          · subst hj
            simp [Memory.write, hv, hmiss j (le_refl j)]
          · have hjk : ¬ k = j := fun h => hj h.symm
            simp [Memory.write, Memory.read, hv, hj, hjk]
        · by_cases hj : j = k
          · subst hj
            simp [Memory.write, Memory.read, hv]
          · have hjk : ¬ k = j := fun h => hj h.symm
            simp [Memory.write, Memory.read, hv, hj, hjk]
      · by_cases haj : a = j
        · subst haj
          have hjk : ¬ a = k := fun h => hk h.symm
          simp [Memory.write, Memory.read, hka, hk, hjk]
        · simp [Memory.write, Memory.read, hka, hk, haj, ih htail]

/-- Every entry after a write was there before or is the one written. -/
theorem Memory.mem_write {m : Memory} {k : Nat} {v : Byte} {c : Host.Cell} (h : c ∈ m.write k v) :
    c ∈ m ∨ (c = (k, v) ∧ v ≠ Config.unwrittenByte) := by
  induction m with
  | nil =>
    by_cases hv : v = Config.unwrittenByte <;> simp_all [Memory.write]
  | cons d m ih =>
    obtain ⟨a, b⟩ := d
    by_cases hka : k < a
    · by_cases hv : v = Config.unwrittenByte
      · simp only [Memory.write, hka, hv, if_true] at h
        exact Or.inl h
      · simp only [Memory.write, hka, hv, if_true, if_false, List.mem_cons] at h
        rcases h with rfl | rfl | h
        · exact Or.inr ⟨rfl, hv⟩
        · exact Or.inl (by simp)
        · exact Or.inl (by simp [h])
    · by_cases hk : k = a
      · by_cases hv : v = Config.unwrittenByte
        · subst hk
          simp only [Memory.write, hka, hv, if_true, if_false] at h
          exact Or.inl (by simp [h])
        · subst hk
          simp only [Memory.write, hka, hv, if_true, if_false, List.mem_cons] at h
          rcases h with rfl | h
          · exact Or.inr ⟨rfl, hv⟩
          · exact Or.inl (by simp [h])
      · simp only [Memory.write, hka, hk, if_false, List.mem_cons] at h
        rcases h with rfl | h
        · exact Or.inl (by simp)
        · rcases ih h with h | h
          · exact Or.inl (by simp [h])
          · exact Or.inr h

/-- A write keeps the addresses strictly rising. -/
theorem Memory.write_pairwise {m : Memory} (hs : m.Pairwise (fun c d => c.1 < d.1)) (k : Nat) (v : Byte) :
    (m.write k v).Pairwise (fun c d => c.1 < d.1) := by
  induction m with
  | nil => by_cases hv : v = Config.unwrittenByte <;> simp [Memory.write, hv]
  | cons c m ih =>
    obtain ⟨a, b⟩ := c
    obtain ⟨hlt, htail⟩ := List.pairwise_cons.mp hs
    by_cases hka : k < a
    · by_cases hv : v = Config.unwrittenByte
      · simpa [Memory.write, hka, hv] using hs
      · simp only [Memory.write, hka, hv, if_true, if_false]
        refine List.pairwise_cons.mpr ⟨?_, hs⟩
        intro d hd
        rcases List.mem_cons.mp hd with rfl | hd
        · exact hka
        · exact lt_trans hka (hlt d hd)
    · by_cases hk : k = a
      · subst hk
        by_cases hv : v = Config.unwrittenByte
        · simpa [Memory.write, hv] using htail
        · simp only [Memory.write, lt_irrefl, hv, if_true, if_false]
          exact List.pairwise_cons.mpr ⟨hlt, htail⟩
      · simp only [Memory.write, hka, hk, if_false]
        refine List.pairwise_cons.mpr ⟨?_, ih htail⟩
        intro d hd
        rcases Memory.mem_write hd with hd | ⟨rfl, _⟩
        · exact hlt d hd
        · change a < k
          omega

/-- A write to a cell that exists keeps the canonical form. -/
theorem Memory.write_wf {m : Memory} (hm : m.wf) {k : Nat} (hk : k < 192) (v : Byte) : (m.write k v).wf := by
  refine ⟨Memory.write_pairwise hm.1 k v, ?_⟩
  intro c hc
  rcases Memory.mem_write hc with hc | ⟨rfl, hv⟩
  · exact hm.2 c hc
  · exact ⟨hk, hv⟩

/-- Writing bytes keeps the canonical form, when the cells exist. -/
theorem Memory.writeBytes_wf {m : Memory} (hm : m.wf) {off : Nat} {bytes : List Byte}
    (h : off + bytes.length ≤ 192) : (m.writeBytes off bytes).wf := by
  induction bytes generalizing m off with
  | nil => exact hm
  | cons b bs ih =>
    simp only [List.length_cons] at h
    exact ih (Memory.write_wf hm (by omega) b) (by omega)

/-- What a buffer holds after bytes are written: the bytes in their cells, every other cell as before (R44). -/
theorem Memory.read_writeBytes {m : Memory} (hs : m.Pairwise (fun c d => c.1 < d.1)) (off : Nat) (bytes : List Byte)
    (k : Nat) :
    (m.writeBytes off bytes).read k =
      if h : off ≤ k ∧ k < off + bytes.length then bytes[k - off]'(by omega) else m.read k := by
  induction bytes generalizing m off with
  | nil =>
    have : ¬ (off ≤ k ∧ k < off + ([] : List Byte).length) := by simp
    rw [dif_neg this]
    rfl
  | cons b bs ih =>
    have hs' := Memory.write_pairwise hs off b
    rw [Memory.writeBytes, ih hs', Memory.read_write hs]
    by_cases hk : k = off
    · subst hk
      simp
    · by_cases hin : off + 1 ≤ k ∧ k < off + 1 + bs.length
      · have hin' : off ≤ k ∧ k < off + (b :: bs).length := by simp only [List.length_cons]; omega
        rw [dif_pos hin, dif_pos hin']
        have hidx : k - off = (k - (off + 1)) + 1 := by omega
        simp [hidx]
      · have hin' : ¬ (off ≤ k ∧ k < off + (b :: bs).length) := by simp only [List.length_cons]; omega
        rw [dif_neg hin, dif_neg hin', if_neg hk]

@[simp] theorem Memory.readBytes_length (m : Memory) (off n : Nat) : (m.readBytes off n).length = n := by
  induction n generalizing off with
  | zero => rfl
  | succ n ih => simp [Memory.readBytes, ih]

/-- Byte `j` of the bytes read from `off` is the cell at `off + j` (R44). -/
theorem Memory.getElem_readBytes (m : Memory) (off n j : Nat) (h : j < (m.readBytes off n).length) :
    (m.readBytes off n)[j] = m.read (off + j) := by
  induction n generalizing off j with
  | zero => simp [Memory.readBytes] at h
  | succ n ih =>
    cases j with
    | zero => simp [Memory.readBytes]
    | succ j =>
      simp only [Memory.readBytes, List.getElem_cons_succ]
      rw [ih (off + 1) j (by simpa [Memory.readBytes] using h)]
      congr 1
      omega

/-- Two buffers that agree on the cells read give the same bytes. -/
theorem Memory.readBytes_congr {m m' : Memory} {off n : Nat}
    (h : ∀ k, off ≤ k → k < off + n → m'.read k = m.read k) : m'.readBytes off n = m.readBytes off n := by
  apply List.ext_getElem (by simp)
  intro j h1 h2
  rw [Memory.getElem_readBytes, Memory.getElem_readBytes]
  simp only [Memory.readBytes_length] at h1
  exact h (off + j) (by omega) (by omega)

/-- A read of cells that exist answers them (R44). -/
theorem bufRead_ok (m : Memory) {off n : Nat} (h : off + n ≤ 192) : bufRead m off n = .ok (m.readBytes off n) := by
  rw [bufRead, if_pos]; exact h

/-- A write to cells that exist answers the new buffer (R44). -/
theorem bufWrite_ok (m : Memory) {off : Nat} {bytes : List Byte} (h : off + bytes.length ≤ 192) :
    bufWrite m off bytes = .ok (m.writeBytes off bytes) := by
  rw [bufWrite, if_pos]; exact h

/-- All `bufRead` can do: read cells that exist, or stop with its own fault. -/
theorem bufRead_cases (m : Memory) (off n : Nat) :
    (off + n ≤ 192 ∧ bufRead m off n = .ok (m.readBytes off n)) ∨
      (¬ off + n ≤ 192 ∧ bufRead m off n = .error (.bufferRange off n)) := by
  by_cases h : off + n ≤ 192
  · exact .inl ⟨h, bufRead_ok m h⟩
  · exact .inr ⟨h, by rw [bufRead, if_neg]; exact h⟩

/-- All `bufWrite` can do: write cells that exist, or stop with its own fault. -/
theorem bufWrite_cases (m : Memory) (off : Nat) (bytes : List Byte) :
    (off + bytes.length ≤ 192 ∧ bufWrite m off bytes = .ok (m.writeBytes off bytes)) ∨
      (¬ off + bytes.length ≤ 192 ∧ bufWrite m off bytes = .error (.bufferRange off bytes.length)) := by
  by_cases h : off + bytes.length ≤ 192
  · exact .inl ⟨h, bufWrite_ok m h⟩
  · exact .inr ⟨h, by rw [bufWrite, if_neg]; exact h⟩

/-- A `bufWrite` that answers keeps the canonical form. -/
theorem bufWrite_wf {m m' : Memory} {off : Nat} {bytes : List Byte} (hm : m.wf)
    (h : bufWrite m off bytes = .ok m') : m'.wf := by
  rcases bufWrite_cases m off bytes with ⟨hle, heq⟩ | ⟨_, heq⟩
  · rw [heq] at h
    cases h
    exact Memory.writeBytes_wf hm hle
  · rw [heq] at h
    cases h

/-- The empty buffer has the canonical form; it is State.reset's. -/
theorem Memory.nil_wf : Memory.wf [] := by simp [Memory.wf]

theorem State.reset_buf_wf : State.reset.buf.wf := Memory.nil_wf

/-- A reset event leaves a buffer in the canonical form, whatever the draw. -/
theorem State.afterReset_buf_wf (draw : ResetDraw) (s : State) : (s.afterReset draw).buf.wf := by
  apply Memory.writeBytes_wf Memory.nil_wf
  simp only [List.length_take, Config.bufSize]
  omega

end Sys2Proof.Machine
end

