-- ==== Sys2Proof/Laws/Operands.lean ====
section
/-! SUPPORT. Byte strings and numbers: little-endian packing and its inverse, lengths of the byte forms, lane accessors. -/

namespace Sys2Proof.Machine

theorem leNat_nil : leNat [] = 0 := rfl

theorem leNat_cons (b : Byte) (bs : List Byte) : leNat (b :: bs) = b.toNat + 256 * leNat bs := rfl

@[simp] theorem leBytes_length (n v : Nat) : (leBytes n v).length = n := by
  induction n generalizing v with
  | zero => rfl
  | succ n ih => simp [leBytes, ih]

theorem leNat_lt (bs : List Byte) : leNat bs < 256 ^ bs.length := by
  induction bs with
  | nil => simp [leNat]
  | cons b bs ih =>
    have hb := b.isLt
    simp only [leNat, List.length_cons, pow_succ]
    omega

/-- Unpacking what was packed keeps the low `n` bytes. -/
theorem leNat_leBytes (n v : Nat) : leNat (leBytes n v) = v % 256 ^ n := by
  induction n generalizing v with
  | zero => simp [leBytes, leNat, Nat.mod_one]
  | succ n ih =>
    simp only [leBytes, leNat, BitVec.toNat_ofNat, ih]
    have hpow : 256 ^ (n + 1) = 256 * 256 ^ n := by rw [pow_succ, Nat.mul_comm]
    exact (hpow ▸ Nat.mod_mul (a := 256) (b := 256 ^ n) (x := v)).symm

/-- Packing what was unpacked gives the bytes back. -/
theorem leBytes_leNat (bs : List Byte) : leBytes bs.length (leNat bs) = bs := by
  induction bs with
  | nil => rfl
  | cons b bs ih =>
    have hb := b.isLt
    have hmod : BitVec.ofNat 8 (b.toNat + 256 * leNat bs) = b := by
      apply BitVec.eq_of_toNat_eq
      simp only [BitVec.toNat_ofNat]
      omega
    have hdiv : (b.toNat + 256 * leNat bs) / 256 = leNat bs := by omega
    simp only [List.length_cons, leBytes, leNat, hmod, hdiv, ih]

theorem leNat_append (xs ys : List Byte) : leNat (xs ++ ys) = leNat xs + 256 ^ xs.length * leNat ys := by
  induction xs with
  | nil => simp [leNat]
  | cons x xs ih =>
    simp only [List.cons_append, leNat, ih, List.length_cons, pow_succ]
    ring

@[simp] theorem bytesOf64_length (v : Word) : (bytesOf64 v).length = 8 := by simp [bytesOf64]

@[simp] theorem bytesOf32_length (v : BitVec 32) : (bytesOf32 v).length = 4 := by simp [bytesOf32]

@[simp] theorem bytesOfDigest_length (d : Word × Word) : (bytesOfDigest d).length = 16 := by simp [bytesOfDigest]

@[simp] theorem bytesOfQuad_length (q : Quad) : (bytesOfQuad q).length = 32 := by simp [bytesOfQuad]

/-- The lane whose bytes start a byte string is read back at offset 0. -/
theorem le64_bytesOf64 (v : Word) (rest : List Byte) : le64 (bytesOf64 v ++ rest) 0 = v := by
  have h : ((bytesOf64 v ++ rest).drop 0).take 8 = bytesOf64 v := by
    rw [List.drop_zero, List.take_append_of_le_length (by simp), List.take_of_length_le (by simp)]
  rw [le64, h, bytesOf64, leNat_leBytes]
  apply BitVec.eq_of_toNat_eq
  have hv := v.isLt
  simp only [BitVec.toNat_ofNat]
  omega

/-- The 32-bit field whose bytes start a byte string is read back at offset 0. -/
theorem le32_bytesOf32 (v : BitVec 32) (rest : List Byte) : le32 (bytesOf32 v ++ rest) 0 = v := by
  have h : ((bytesOf32 v ++ rest).drop 0).take 4 = bytesOf32 v := by
    rw [List.drop_zero, List.take_append_of_le_length (by simp), List.take_of_length_le (by simp)]
  rw [le32, h, bytesOf32, leNat_leBytes]
  apply BitVec.eq_of_toNat_eq
  have hv := v.isLt
  simp only [BitVec.toNat_ofNat]
  omega

/-- Reading a lane skips what stands before its offset. -/
theorem le64_skip (xs ys : List Byte) (off : Nat) (h : xs.length ≤ off) :
    le64 (xs ++ ys) off = le64 ys (off - xs.length) := by
  simp [le64, List.drop_append, List.drop_of_length_le h]

/-- Reading a 32-bit field skips what stands before its offset. -/
theorem le32_skip (xs ys : List Byte) (off : Nat) (h : xs.length ≤ off) :
    le32 (xs ++ ys) off = le32 ys (off - xs.length) := by
  simp [le32, List.drop_append, List.drop_of_length_le h]

/-- A padded final block is 96 bytes (R114). -/
theorem padBlock_length (t : List Byte) (h : t.length ≤ 95) : (padBlock t).length = 96 := by
  simp [padBlock]; omega

theorem lane_setLane (h : Lanes) (i j : Fin 12) (v : Word) :
    lane (setLane h i v) j = if i = j then v else lane h j := by
  simp [lane, setLane, Vector.getElem_set, Fin.ext_iff]

@[simp] theorem lane_setLane_same (h : Lanes) (i : Fin 12) (v : Word) : lane (setLane h i v) i = v := by
  simp [lane_setLane]

theorem lane_setLane_other (h : Lanes) {i j : Fin 12} (v : Word) (hij : i ≠ j) :
    lane (setLane h i v) j = lane h j := by
  simp [lane_setLane, hij]

/-- Twelve lanes are equal when each of them is. -/
theorem lanes_ext {h k : Lanes} (heq : ∀ i, lane h i = lane k i) : h = k := by
  apply Vector.ext
  intro i hi
  exact heq ⟨i, hi⟩

end Sys2Proof.Machine
end

