-- ==== Sys2Proof/Laws/State.lean ====
section
/-! SUPPORT. One lemma per field per update of the state, so that no proof unfolds a record update. -/

namespace Sys2Proof.Machine

variable (s : State)

@[simp] theorem State.setAcc_acc (h : Lanes) : (s.setAcc h).acc = h := rfl
@[simp] theorem State.setAcc_buf (h : Lanes) : (s.setAcc h).buf = s.buf := rfl
@[simp] theorem State.setAcc_length (h : Lanes) : (s.setAcc h).length = s.length := rfl
@[simp] theorem State.setAcc_remainder (h : Lanes) : (s.setAcc h).remainder = s.remainder := rfl
@[simp] theorem State.setAcc_inbox (h : Lanes) : (s.setAcc h).inbox = s.inbox := rfl
@[simp] theorem State.setAcc_responses (h : Lanes) : (s.setAcc h).responses = s.responses := rfl

@[simp] theorem State.setBuf_acc (m : Memory) : (s.setBuf m).acc = s.acc := rfl
@[simp] theorem State.setBuf_buf (m : Memory) : (s.setBuf m).buf = m := rfl
@[simp] theorem State.setBuf_length (m : Memory) : (s.setBuf m).length = s.length := rfl
@[simp] theorem State.setBuf_remainder (m : Memory) : (s.setBuf m).remainder = s.remainder := rfl
@[simp] theorem State.setBuf_inbox (m : Memory) : (s.setBuf m).inbox = s.inbox := rfl
@[simp] theorem State.setBuf_responses (m : Memory) : (s.setBuf m).responses = s.responses := rfl

@[simp] theorem State.setLength_acc (n : Nat) : (s.setLength n).acc = s.acc := rfl
@[simp] theorem State.setLength_buf (n : Nat) : (s.setLength n).buf = s.buf := rfl
@[simp] theorem State.setLength_length (n : Nat) : (s.setLength n).length = BitVec.ofNat 32 n := rfl
@[simp] theorem State.setLength_remainder (n : Nat) : (s.setLength n).remainder = s.remainder := rfl
@[simp] theorem State.setLength_inbox (n : Nat) : (s.setLength n).inbox = s.inbox := rfl
@[simp] theorem State.setLength_responses (n : Nat) : (s.setLength n).responses = s.responses := rfl

@[simp] theorem State.setRemainder_acc (n : Nat) : (s.setRemainder n).acc = s.acc := rfl
@[simp] theorem State.setRemainder_buf (n : Nat) : (s.setRemainder n).buf = s.buf := rfl
@[simp] theorem State.setRemainder_length (n : Nat) : (s.setRemainder n).length = s.length := rfl
@[simp] theorem State.setRemainder_remainder (n : Nat) : (s.setRemainder n).remainder = BitVec.ofNat 8 n := rfl
@[simp] theorem State.setRemainder_inbox (n : Nat) : (s.setRemainder n).inbox = s.inbox := rfl
@[simp] theorem State.setRemainder_responses (n : Nat) : (s.setRemainder n).responses = s.responses := rfl

@[simp] theorem State.setInbox_acc (q : List Input) : (s.setInbox q).acc = s.acc := rfl
@[simp] theorem State.setInbox_buf (q : List Input) : (s.setInbox q).buf = s.buf := rfl
@[simp] theorem State.setInbox_length (q : List Input) : (s.setInbox q).length = s.length := rfl
@[simp] theorem State.setInbox_remainder (q : List Input) : (s.setInbox q).remainder = s.remainder := rfl
@[simp] theorem State.setInbox_inbox (q : List Input) : (s.setInbox q).inbox = q := rfl
@[simp] theorem State.setInbox_responses (q : List Input) : (s.setInbox q).responses = s.responses := rfl

@[simp] theorem State.pushResponse_acc (f : Frame) : (s.pushResponse f).acc = s.acc := rfl
@[simp] theorem State.pushResponse_buf (f : Frame) : (s.pushResponse f).buf = s.buf := rfl
@[simp] theorem State.pushResponse_length (f : Frame) : (s.pushResponse f).length = s.length := rfl
@[simp] theorem State.pushResponse_remainder (f : Frame) : (s.pushResponse f).remainder = s.remainder := rfl
@[simp] theorem State.pushResponse_inbox (f : Frame) : (s.pushResponse f).inbox = s.inbox := rfl
@[simp] theorem State.pushResponse_responses (f : Frame) : (s.pushResponse f).responses = s.responses ++ [f] := rfl

@[simp] theorem State.afterReset_acc (d : ResetDraw) : (s.afterReset d).acc = setLane (setLane d.acc 0 Config.sc) 1 Config.sc := rfl
@[simp] theorem State.afterReset_buf (d : ResetDraw) : (s.afterReset d).buf = Memory.writeBytes [] 0 (d.buf.take Config.bufSize) := rfl
@[simp] theorem State.afterReset_length (d : ResetDraw) : (s.afterReset d).length = 0#32 := rfl
@[simp] theorem State.afterReset_remainder (d : ResetDraw) : (s.afterReset d).remainder = 0#8 := rfl
@[simp] theorem State.afterReset_inbox (d : ResetDraw) : (s.afterReset d).inbox = s.inbox := rfl
@[simp] theorem State.afterReset_responses (d : ResetDraw) : (s.afterReset d).responses = s.responses := rfl

/-- Two states with the same six fields are equal. -/
theorem State.eq_of_fields {s t : State} (hacc : s.acc = t.acc) (hbuf : s.buf = t.buf) (hlen : s.length = t.length)
    (hrem : s.remainder = t.remainder) (hin : s.inbox = t.inbox) (hresp : s.responses = t.responses) : s = t := by
  cases s; cases t; simp_all

/-- Presenting a response is the record update of `responses`. -/
theorem State.pushResponse_def (f : Frame) : s.pushResponse f = { s with responses := s.responses ++ [f] } := rfl

end Sys2Proof.Machine
end

