-- ==== Sys2Proof/Laws/Ops.lean ====
section
/-! SUPPORT. What each shared operation can do, said once; the meanings' proofs cite these and unfold nothing. -/

namespace Sys2Proof.Machine

/-- `answer` always completes: one OK response more, nothing else changed (R14). -/
theorem answer_eq (result : List Byte) (s : State) :
    answer result s = .next { s with responses := s.responses ++ [okFrame result] } := rfl

/-- `raise` always completes: one error response more, nothing else changed (R165). -/
theorem raise_eq (e : CommandError) (s : State) :
    raise e s = .next { s with responses := s.responses ++ [errorFrame e] } := rfl

/-- `conclude` answers its result or raises its error. -/
theorem conclude_cases (r : Except CommandError (List Byte)) (s : State) :
    (∃ result, r = .ok result ∧ conclude r s = .next (s.pushResponse (okFrame result))) ∨
      (∃ e, r = .error e ∧ conclude r s = .next (s.pushResponse (errorFrame e))) := by
  cases r with
  | ok result => exact .inl ⟨result, rfl, rfl⟩
  | error e => exact .inr ⟨e, rfl, rfl⟩

/-- `conclude` always completes with exactly one response more. -/
theorem conclude_next (r : Except CommandError (List Byte)) (s : State) :
    ∃ frame, conclude r s = .next (s.pushResponse frame) := by
  rcases conclude_cases r s with ⟨result, _, h⟩ | ⟨e, _, h⟩
  · exact ⟨_, h⟩
  · exact ⟨_, h⟩

@[simp] theorem withBuffer_ok {α : Type} (v : α) (k : α → Result) : withBuffer (.ok v) k = k v := rfl

@[simp] theorem withBuffer_error {α : Type} (e : Fault) (k : α → Result) :
    withBuffer (.error e) k = .fault e := rfl

/-- When `withBuffer` goes on to a next state, the buffer access answered. -/
theorem withBuffer_next {α : Type} {r : Except Fault α} {k : α → Result} {t : State}
    (h : withBuffer r k = .next t) : ∃ v, r = .ok v ∧ k v = .next t := by
  cases r with
  | ok v => exact ⟨v, rfl, h⟩
  | error e => cases h

@[simp] theorem payloadOf_absent (len : BitVec 32) : payloadOf (.absent len) = .ok none := rfl

@[simp] theorem payloadOf_negative (len : BitVec 32) : payloadOf (.negative len) = .error .rangeOutOfBounds := rfl

theorem payloadOf_present {bytes : List Byte} (h : bytes.length < 2 ^ 31) :
    payloadOf (.present bytes) = .ok (some bytes) := by
  rw [payloadOf, if_neg]; omega

/-- All `payloadOf` can do, by the three forms of a byte range (R62, R65, R162). -/
theorem payloadOf_cases (range : ByteRange) :
    (∃ len, range = .absent len ∧ payloadOf range = .ok none) ∨
      (∃ bytes, range = .present bytes ∧ bytes.length < 2 ^ 31 ∧ payloadOf range = .ok (some bytes)) ∨
      payloadOf range = .error .rangeOutOfBounds := by
  cases range with
  | absent len => exact .inl ⟨len, rfl, rfl⟩
  | negative len => exact .inr (.inr rfl)
  | present bytes =>
    by_cases h : bytes.length < 2 ^ 31
    · exact .inr (.inl ⟨bytes, rfl, h, payloadOf_present h⟩)
    · refine .inr (.inr ?_)
      rw [payloadOf, if_pos]
      omega

/-- All `runFrame` can do: run the decoded command, or raise IllegalCommand (R67, R163). -/
theorem runFrame_cases (decoded : Except DecodeError Instr) (run : Instr → State → Result) (s : State) :
    (∃ i, decoded = .ok i ∧ runFrame decoded run s = run i s) ∨
      (∃ e, decoded = .error e ∧ runFrame decoded run s = raise .illegalCommand s) := by
  cases decoded with
  | ok i => exact .inl ⟨i, rfl, rfl⟩
  | error e => exact .inr ⟨e, rfl, rfl⟩

/-- All `takeInput` can do: wait, run a frame, or reset (R60, R180, R182). -/
theorem takeInput_cases (run : Instr → State → Result) (dec : Frame → Except DecodeError Instr) (s : State) :
    (s.inbox = [] ∧ takeInput run dec s = .next s) ∨
      (∃ f rest, s.inbox = .command f :: rest ∧ takeInput run dec s = runFrame (dec f) run (s.setInbox rest)) ∨
      (∃ d rest, s.inbox = .reset d :: rest ∧ takeInput run dec s = .next ((s.setInbox rest).afterReset d)) := by
  cases hin : s.inbox with
  | nil => exact .inl ⟨rfl, by simp [takeInput, hin]⟩
  | cons a rest =>
    cases a with
    | command f => exact .inr (.inl ⟨f, rest, rfl, by simp [takeInput, hin]⟩)
    | reset d => exact .inr (.inr ⟨d, rest, rfl, by simp [takeInput, hin]⟩)

/-- Absorbing `n` blocks looks at the first `96·n` bytes only. -/
theorem absorbBlocks_append (n : Nat) (m rest : List Byte) (h : Lanes) (hlen : 96 * n ≤ m.length) :
    absorbBlocks n (m ++ rest) h = absorbBlocks n m h := by
  induction n generalizing m h with
  | zero => rfl
  | succ n ih =>
    have h1 : (m ++ rest).take 96 = m.take 96 := List.take_append_of_le_length (by omega)
    have h2 : (m ++ rest).drop 96 = m.drop 96 ++ rest := List.drop_append_of_le_length (by omega)
    rw [absorbBlocks, absorbBlocks, h1, h2, ih _ _ (by rw [List.length_drop]; omega)]

/-- Absorbing `n` blocks and then `k` more is absorbing `n + k`. -/
theorem absorbBlocks_add (n k : Nat) (m : List Byte) (h : Lanes) :
    absorbBlocks (n + k) m h = absorbBlocks k (m.drop (96 * n)) (absorbBlocks n m h) := by
  induction n generalizing m h with
  | zero => simp [absorbBlocks]
  | succ n ih =>
    have hn : n + 1 + k = (n + k) + 1 := by omega
    have hd : (m.drop 96).drop (96 * n) = m.drop (96 * (n + 1)) := by rw [List.drop_drop]; congr 1; omega
    rw [hn, absorbBlocks, absorbBlocks, ih, hd]

end Sys2Proof.Machine
end

