-- ==== Sys2Proof/Laws/PerInstr.lean ====
section
/-! SUPPORT. A fact about every command as syntax, one lemma per constructor: the header of its encoding is the one the
opcode table gives, `HDR & mask = match` (30_encoding.md R68). -/

namespace Sys2Proof.Laws.TableHeader

open Sys2Proof.Machine

/-- A well-formed command's encoded header has the table's match under the table's mask (R61, R68). -/
def Statement (i : Instr) : Prop :=
  i.wellFormed = true → header (encode i) &&& i.opcode.tableMask = i.opcode.tableMatch

/-- The header of an encoded command is its header word (R61). -/
theorem header_encode (i : Instr) : header (encode i) = headerWord i.opcode i.p := le32_bytesOf32 _ _

/-- A header word has the table's match under the table's mask when its P bit is one the command allows (R62, R68). -/
theorem headerWord_match (o : Opcode) (p : Bool) (h : o.allowsP p = true) :
    headerWord o p &&& o.tableMask = o.tableMatch := by
  cases o <;> cases p <;> first | rfl | (exact absurd h (by decide))

/-- From the P bit to the statement. -/
theorem of_allowsP (i : Instr) (h : i.wellFormed = true → i.opcode.allowsP i.p = true) : Statement i := fun hw => by
  rw [header_encode]
  exact headerWord_match _ _ (h hw)

theorem init (seed1 : Word) (seed2 : Word) : Statement (Instr.init seed1 seed2) := of_allowsP _ fun _ => rfl

theorem update (range : ByteRange) : Statement (Instr.update range) := of_allowsP _ fun _ => rfl

theorem final : Statement .final := of_allowsP _ fun _ => rfl

theorem save : Statement .save := of_allowsP _ fun _ => rfl

theorem restore (image : List Byte) : Statement (Instr.restore image) := of_allowsP _ fun _ => rfl

theorem hash128 (range : ByteRange) (seed1 : Word) (seed2 : Word) : Statement (Instr.hash128 range seed1 seed2) := of_allowsP _ fun _ => rfl

theorem hash64 (range : ByteRange) (seed : Word) : Statement (Instr.hash64 range seed) := of_allowsP _ fun _ => rfl

theorem hash32 (range : ByteRange) (seed : Word) : Statement (Instr.hash32 range seed) := of_allowsP _ fun _ => rfl

theorem short (range : ByteRange) (seed1 : Word) (seed2 : Word) : Statement (Instr.short range seed1 seed2) := of_allowsP _ fun hw => (Bool.and_eq_true_iff.mp hw).1

theorem long (range : ByteRange) (seed1 : Word) (seed2 : Word) : Statement (Instr.long range seed1 seed2) := of_allowsP _ fun hw => (Bool.and_eq_true_iff.mp hw).1

theorem mixblock (h : Lanes) (block : List Byte) : Statement (Instr.mixblock h block) := of_allowsP _ fun _ => rfl

theorem endpartial (h : Lanes) : Statement (Instr.endpartial h) := of_allowsP _ fun _ => rfl

theorem endMix (h : Lanes) (block : List Byte) : Statement (Instr.endMix h block) := of_allowsP _ fun _ => rfl

theorem shortmix (q : Quad) : Statement (Instr.shortmix q) := of_allowsP _ fun _ => rfl

theorem shortend (q : Quad) : Statement (Instr.shortend q) := of_allowsP _ fun _ => rfl

end Sys2Proof.Laws.TableHeader
end

