-- ==== Sys2Proof/Tests/Slice0.lean ====
section
/-! SUPPORT. The model's own tests: ill-formed terms refused by WellFormed, one frame per command written out from
30_encoding.md R61 to R68 and decoded, one or two effects per command with the values of 95_test_vectors.md, and for each
statement with hypotheses a state and operands that meet them. -/

namespace Sys2Proof.Tests

-- One theorem at a time: kernel evaluations that wait on one another each hold a thread.
set_option Elab.async false

open Sys2Proof Sys2Proof.Machine Sys2Proof.SpecForms

/-! ### Helpers -/

/-- `n` zero bytes. -/
def zeros (n : Nat) : List Byte := List.replicate n 0

/-- Twelve zero lanes. -/
def zeroLanes : Lanes := Vector.replicate 12 0

/-- `h[i] = i + 1`. -/
def iota : Lanes := #v[1, 2, 3, 4, 5, 6, 7, 8, 9, 10, 11, 12]

/-- A state with these counters, these lanes, and a buffer whose cell 0 is 0x61. -/
def small (acc : Lanes) (len : BitVec 32) (rem : BitVec 8) : State :=
  { State.reset with acc := acc, buf := [(0, 0x61)], length := len, remainder := rem }

/-- The last response of a next state. -/
def lastResponse (r : Result) : Option Frame :=
  match r with
  | .next t => t.responses.getLast?
  | .fault _ => none
  | .refused _ => none

/-- A fact about the next state; false where there is none. -/
def nextHas (r : Result) (p : State → Bool) : Bool :=
  match r with
  | .next t => p t
  | .fault _ => false
  | .refused _ => false

/-- A frame waiting on the command port of the reset state. -/
def waiting (f : Frame) : State := { State.reset with inbox := [.command f] }

/-! ### WellFormed refuses an ill-formed term for each check -/

theorem smoke_update_payload (bytes : List Byte) (h : 2147483647 < bytes.length) :
    (Instr.update (.present bytes)).wellFormed = false := by
  exact decide_eq_false (by simp only [Config.lenMax]; omega)

theorem smoke_negative_len : (Instr.hash64 (.negative 0x7FFFFFFF) 0).wellFormed = false := by decide
theorem smoke_short_absent : (Instr.short (.absent 0) 0 0).wellFormed = false := by decide
theorem smoke_long_absent : (Instr.long (.absent 0) 0 0).wellFormed = false := by decide
theorem smoke_restore_image : (Instr.restore (zeros 295)).wellFormed = false := by decide +kernel
theorem smoke_mixblock_block : (Instr.mixblock zeroLanes (zeros 95)).wellFormed = false := by decide
theorem smoke_end_block : (Instr.endMix zeroLanes (zeros 97)).wellFormed = false := by decide

/-! ### One frame per command, written out from its encoding -/

theorem test_decode_init : decode [0x01, 0, 0, 0, 1, 0, 0, 0, 0, 0, 0, 0, 2, 0, 0, 0, 0, 0, 0, 0x80] =
    .ok (.init 1 0x8000000000000002) := by decide +kernel
theorem test_decode_update : decode [0x02, 1, 0, 0, 1, 0, 0, 0, 0x61] = .ok (.update (.present [0x61])) := by
  decide +kernel
theorem test_decode_final : decode [0x03, 0, 0, 0] = .ok .final := by decide +kernel
theorem test_decode_save : decode [0x04, 0, 0, 0] = .ok .save := by decide +kernel
theorem test_decode_restore : decode ([0x05, 0, 0, 0, 7] ++ zeros 294 ++ [9]) = .ok (.restore ([7] ++ zeros 294 ++ [9])) := by
  decide +kernel
theorem test_decode_hash128 :
    decode [0x10, 1, 0, 0, 1, 0, 0, 0, 0, 0, 0, 0, 2, 0, 0, 0, 0, 0, 0, 0, 2, 0, 0, 0, 0x61, 0x62] =
      .ok (.hash128 (.present [0x61, 0x62]) 1 2) := by decide +kernel
theorem test_decode_hash64 : decode [0x11, 0, 0, 0, 7, 0, 0, 0, 0, 0, 0, 0, 5, 0, 0, 0x80] =
    .ok (.hash64 (.absent 0x80000005) 7) := by decide +kernel
theorem test_decode_hash32 : decode [0x12, 1, 0, 0, 0, 0, 0, 0, 0, 0, 0, 0, 0, 0, 0, 0x90] =
    .ok (.hash32 (.negative 0x90000000) 0) := by decide +kernel
theorem test_decode_short :
    decode [0x13, 1, 0, 0, 1, 0, 0, 0, 0, 0, 0, 0, 2, 0, 0, 0, 0, 0, 0, 0, 0, 0, 0, 0] =
      .ok (.short (.present []) 1 2) := by decide +kernel
theorem test_decode_long :
    decode [0x14, 1, 0, 0, 1, 0, 0, 0, 0, 0, 0, 0, 2, 0, 0, 0, 0, 0, 0, 0, 1, 0, 0, 0, 0x78] =
      .ok (.long (.present [0x78]) 1 2) := by decide +kernel
theorem test_decode_mixblock : decode ([0x20, 0, 0, 0, 1] ++ zeros 94 ++ [0x80, 5] ++ zeros 94 ++ [6]) =
    .ok (.mixblock (setLane (setLane zeroLanes 0 1) 11 0x8000000000000000) ([5] ++ zeros 94 ++ [6])) := by
  decide +kernel
theorem test_decode_endpartial : decode ([0x21, 0, 0, 0] ++ zeros 8 ++ [3] ++ zeros 87) =
    .ok (.endpartial (setLane zeroLanes 1 3)) := by decide +kernel
theorem test_decode_end : decode ([0x22, 0, 0, 0, 1] ++ zeros 95 ++ [5] ++ zeros 95) =
    .ok (.endMix (setLane zeroLanes 0 1) ([5] ++ zeros 95)) := by decide +kernel
theorem test_decode_shortmix :
    decode [0x23, 0, 0, 0, 1, 0, 0, 0, 0, 0, 0, 0, 2, 0, 0, 0, 0, 0, 0, 0, 3, 0, 0, 0, 0, 0, 0, 0, 4, 0, 0, 0, 0, 0, 0, 0] =
      .ok (.shortmix { a := 1, b := 2, c := 3, d := 4 }) := by decide +kernel
theorem test_decode_shortend :
    decode [0x24, 0, 0, 0, 1, 0, 0, 0, 0, 0, 0, 0, 2, 0, 0, 0, 0, 0, 0, 0, 3, 0, 0, 0, 0, 0, 0, 0, 4, 0, 0, 0, 0, 0, 0, 0] =
      .ok (.shortend { a := 1, b := 2, c := 3, d := 4 }) := by decide +kernel

/-! The six tests of R67, each with a frame of 95_test_vectors.md B9 that fails it. -/

theorem test_decode_no_header : decode [0x03, 0, 0] = .error .noHeader := by decide +kernel
theorem test_decode_reserved : decode [0x03, 0x02, 0, 0] = .error .reservedBits := by decide +kernel
theorem test_decode_opcode : decode [0x06, 0, 0, 0] = .error .unknownOpcode := by decide +kernel
theorem test_decode_p : decode ([0x13, 0, 0, 0] ++ zeros 20) = .error .illegalP := by decide +kernel
theorem test_decode_fixed : decode [0x02, 0x01, 0, 0, 0x01, 0] = .error .shortFixedPart := by decide +kernel
theorem test_decode_length : decode [0x02, 0x01, 0, 0, 0x02, 0, 0, 0, 0x61] = .error .wrongLength := by decide +kernel

/-! ### One or two effects per command (95_test_vectors.md) -/

/-- R131: the stale cells stay, the seeds and counters are written. -/
theorem test_init : nextHas (exec (.init 7 8) (small iota 200 8))
    (fun t => t.acc == setLane (setLane iota 0 7) 1 8 && t.buf == [(0, 0x61)] && t.length == 0 && t.remainder == 0) = true := by
  decide +kernel

/-- C P6 commands 3 and 2: the last bytes under the cap, and one more. -/
theorem test_update_cap : nextHas (exec (.update (.present [0x61, 0x62, 0x63, 0x64, 0x65])) (small iota 0x7FFFFFFA 26))
    (fun t => t.length == 0x7FFFFFFF && t.remainder == 31 && t.acc == iota && t.buf.read 30 == 0x65) = true ∧
    lastResponse (exec (.update (.present (zeros 6))) (small iota 0x7FFFFFFA 26)) = some [0x04, 0, 0, 0] := by
  decide +kernel

/-- B7 row 4 in zeros: 192 bytes at once leave an empty buffer cursor and mixed lanes. -/
theorem test_update_long : nextHas (exec (.update (.present (zeros 193))) State.reset)
    (fun t => t.length == 193 && t.remainder == 1 && !(t.acc == State.reset.acc)) = true := by decide +kernel

/-- A2 S2: `"a"` with both seeds SC. -/
theorem test_final_short : lastResponse (exec .final (small State.reset.acc 1 1)) =
    some [0, 0, 0, 0, 0xDD, 0x4C, 0xDF, 0x12, 0x06, 0x3A, 0x42, 0x56, 0x63, 0xDC, 0x41, 0x82, 0xF8, 0x00, 0x63, 0xF9] := by
  decide +kernel

/-- B3 N4 and A2 S5: the long finish of `seq(192)` from the listed lanes, `remainder = 0`. -/
theorem test_final_long : lastResponse (exec .final (small
    #v[0x637C4FA76F8C8DE3, 0xC5106CD92BD96846, 0x8FAB34140625998A, 0x2530F9BA59D17F59, 0x46DB3F5453A5D420,
      0xD5FD7E1CD701947A, 0xA21CCD6B2A36A616, 0x6C57FECD9AEFC6C5, 0x5EA438B226404EA2, 0x135796D8996FB712,
      0x5534AF0A3EF3C32F, 0x4AF6BEBFE7CE4743] 192 0)) =
    some [0, 0, 0, 0, 0xE7, 0xD3, 0xF8, 0x44, 0x98, 0xCA, 0x7D, 0x5A, 0x9A, 0x4F, 0xA6, 0x5D, 0xAF, 0x23, 0x40, 0x3B] := by
  decide +kernel

/-- R139: `buf[0]`, `s[11]`, `length`, `remainder` in their places. -/
theorem test_save : (lastResponse (exec .save (small iota 0x12345678 9))).map
    (fun r => (r.length, r[4]?, r[284]?, (r.drop 292))) =
    some (300, some 0x61, some 12, [0x78, 0x56, 0x34, 0x12, 9, 0, 0, 0]) := by decide +kernel

/-- B9: `remainder = 192` and `length = −1` are rejected. -/
theorem test_restore_rejects :
    lastResponse (exec (.restore (zeros 292 ++ [0xC0, 0, 0, 0])) State.reset) = some [0x02, 0, 0, 0] ∧
    lastResponse (exec (.restore (zeros 288 ++ [0xFF, 0xFF, 0xFF, 0xFF, 0, 0, 0, 0])) State.reset) = some [0x02, 0, 0, 0] := by
  decide +kernel

/-- R138: the cells the image names are written over the old ones. -/
theorem test_restore : nextHas (exec (.restore (zeros 191 ++ [5] ++ zeros 96 ++ [3, 0, 0, 0, 0xBF, 0, 0, 0])) (small iota 1 1))
    (fun t => t.buf == [(191, 5)] && t.acc == zeroLanes && t.length == 3 && t.remainder == 0xBF) = true := by decide +kernel

/-- A2 S3 and the absent range. -/
theorem test_hash128 :
    lastResponse (exec (.hash128 (.present [0x61, 0x62, 0x63]) 0xDEADBEEFDEADBEEF 0xDEADBEEFDEADBEEF) State.reset) =
      some [0, 0, 0, 0, 0x4D, 0x82, 0xC3, 0x5B, 0xB0, 0xEC, 0x90, 0x52, 0x11, 0x80, 0x47, 0xA4, 0x9F, 0xB0, 0xDA, 0x13] ∧
    lastResponse (exec (.hash128 (.absent 5) 1 2) State.reset) = some (zeros 20) := by decide +kernel

/-- B6: `HASH64 "abc", SC`. -/
theorem test_hash64 : lastResponse (exec (.hash64 (.present [0x61, 0x62, 0x63]) 0xDEADBEEFDEADBEEF) State.reset) =
    some [0, 0, 0, 0, 0x4D, 0x82, 0xC3, 0x5B, 0xB0, 0xEC, 0x90, 0x52] := by decide +kernel

/-- A3: `HASH32 seq(17, start 128), 0`, a 16-byte group and one tail byte. -/
theorem test_hash32 : lastResponse (exec (.hash32 (.present [0x80, 0x81, 0x82, 0x83, 0x84, 0x85, 0x86, 0x87, 0x88, 0x89,
    0x8A, 0x8B, 0x8C, 0x8D, 0x8E, 0x8F, 0x90]) 0) State.reset) = some [0, 0, 0, 0, 0xDF, 0xC0, 0x9A, 0x7E] := by
  decide +kernel

/-- B6 tail placement, L = 15: both packed tails. -/
theorem test_short : lastResponse (exec (.short (.present (List.replicate 15 0xFF)) 0 0) State.reset) =
    some (okResponse (bytesOfDigest (0x8376AC26BEE302C2, 0x1DD7888E46600AD3))) := by decide +kernel

/-- B6: `SHORT seq(40), 1, 2`, a 32-byte group and a full-lane tail. -/
theorem test_short_group : lastResponse (exec (.short (.present ((List.range 40).map (BitVec.ofNat 8))) 1 2) State.reset) =
    some (okResponse (bytesOfDigest (0xEED80BA46636A17C, 0xE6B8114D076B7A28))) := by decide +kernel

/-- B6: `LONG seq(95), SC, SC` and `LONG seq(96), SC, SC`. -/
theorem test_long :
    lastResponse (exec (.long (.present ((List.range 95).map (BitVec.ofNat 8))) Config.sc Config.sc) State.reset) =
      some (okResponse (bytesOfDigest (0x1D4693EDD18F058A, 0xCA5C4AC7D2C0CB8D))) ∧
    lastResponse (exec (.long (.present ((List.range 96).map (BitVec.ofNat 8))) Config.sc Config.sc) State.reset) =
      some (okResponse (bytesOfDigest (0x5012B451A9472F93, 0x778C11EEED355791))) := by decide +kernel

/-- B1 M2. -/
theorem test_mixblock : lastResponse (exec (.mixblock iota (zeros 96)) State.reset) = some (okResponse (bytesOfLanes
    #v[0x3D848EB2614627B9, 0x88CCCEA6812828DA, 0x000040000000081A, 0x0000000780000824, 0x00004002101E0832,
      0x20004008D0001049, 0x00044E89903E1067, 0x7800800AEF1E186E, 0x3D848EB261462FB3, 0x88CCCEA4812828C9,
      0x17E91E415564412B, 0x86185E002002BBC7])) := by decide +kernel

/-- B2 E2. -/
theorem test_endpartial : lastResponse (exec (.endpartial iota) State.reset) = some (okResponse (bytesOfLanes
    #v[0x65A08AB74275CE8A, 0x8E6B02C228ADA771, 0x000020000006800F, 0x0000202800068009, 0x0000202801E68012,
      0x01A0226801EE801A, 0x01AD228401EEC063, 0x022DC28B9BEF2869, 0x067AC2C96BF18896, 0x822ADD09D73A2998,
      0x8E6B22C228ADA77B, 0xC6226019EB0B25AF])) := by decide +kernel

/-- B3 N3: the sums wrap. -/
theorem test_end : lastResponse (exec (.endMix iota (List.replicate 96 0xFF)) State.reset) = some (okResponse (bytesOfLanes
    #v[0x9449B91FDF1E0580, 0xC4C56EA3334132C2, 0xF2C4F0DD1DC76B9E, 0xC6FAB5D42B93A76B, 0x5DA5D1828008AD97,
      0xCB53B86D68AC5F79, 0x0D1B083BD6D5236A, 0x7C8C1C7362B71FD7, 0x3D0302E8B975CFA1, 0x19ACD62547871C82,
      0x019CC9605F1F1EBA, 0xC1BE2BFB13512C52])) := by decide +kernel

/-- B4. -/
theorem test_shortmix : lastResponse (exec (.shortmix { a := 1, b := 2, c := 3, d := 4 }) State.reset) =
    some (okResponse (bytesOfQuad { a := 0x2BF7518BD9F16648, b := 0x9A082A6452E0D6F5, c := 0x8811513FD3EDB160, d := 0x03826F115D34E2BD })) := by
  decide +kernel

/-- B5. -/
theorem test_shortend : lastResponse (exec (.shortend { a := 1, b := 2, c := 3, d := 4 }) State.reset) =
    some (okResponse (bytesOfQuad { a := 0xD05BC6CE4C6B2EFE, b := 0x8616FFE259AF1463, c := 0xCC8D19644D5EFEDD, d := 0x6491D728A1B49620 })) := by
  decide +kernel

/-- R182: FINAL as the first command after reset, fetched by a step. -/
theorem test_step_fetch : lastResponse (step (State.reset.withFetchWord 32 3)) =
    some [0, 0, 0, 0, 0x5A, 0xAB, 0x8D, 0x11, 0xF3, 0x95, 0x66, 0x69, 0xE0, 0xEB, 0x67, 0xCB, 0xCE, 0x3A, 0xF3, 0x86] := by
  decide +kernel

theorem test_table_words :
    [0x1, 0x2, 0x3, 0x4, 0x5, 0x10, 0x11, 0x12, 0x113, 0x114, 0x20, 0x21, 0x22, 0x23, 0x24].map
      (fun w => (decodeTableWord 32 w).map Instr.opcode) = Opcode.all.map some := by decide +kernel

end Sys2Proof.Tests
end

