-- ==== Sys2Proof/Tests/Witnesses.lean ====
section
/-! SUPPORT. For each statement of Certificates/Slice0/Obligations.lean that has hypotheses, a state and operands that meet
all of them together, at the boundary values where its clauses meet. -/

namespace Sys2Proof.Tests

-- One theorem at a time: kernel evaluations that wait on one another each hold a thread.
set_option Elab.async false

open Sys2Proof Sys2Proof.Machine Sys2Proof.SpecForms

/-- UPDATE with a negative `LEN` and three bytes after it. -/
def negativeFrame : Frame := [0x02, 1, 0, 0, 0, 0, 0, 0x80, 0x61, 0x62, 0x63]

/-- A RESTORE frame with these two counters, all other cells zero. -/
def restoreFrame (counters : List Byte) : Frame := [0x05, 0, 0, 0] ++ zeros 288 ++ counters

theorem witness_DecodeOfEncode : (Instr.final).wellFormed = true ∧ (Instr.update (.negative 0x80000000)).wellFormed = true ∧
    (Instr.mixblock iota (zeros 96)).wellFormed = true := by decide +kernel

theorem witness_EncodeOfDecode : decode [0x03, 0, 0, 0] = .ok .final ∧ (∀ len, Instr.final.range? ≠ some (.negative len)) ∧
    decode negativeFrame = .ok (.update (.negative 0x80000000)) := by
  refine ⟨by decide +kernel, ?_, by decide +kernel⟩
  intro len h
  cases h

theorem witness_DecodeFollowsTable : IsFrameOf .final [0x03, 0, 0, 0] ∧ IsFrameOf .update negativeFrame := by
  decide +kernel

theorem witness_StepRunsDecodedCommand : (waiting [0x03, 0, 0, 0]).inbox = .command [0x03, 0, 0, 0] :: [] ∧
    decode [0x03, 0, 0, 0] = .ok .final ∧ Instr.final.wellFormed = true := by decide +kernel

/-- A frame of zeros is a frame of no row. -/
theorem no_row_of_zeros (o : Opcode) : ¬ IsFrameOf o [0, 0, 0, 0] := by
  cases o <;> decide +kernel

theorem witness_FramesOutsideTheTableAreIllegal : (waiting [0, 0, 0, 0]).inbox = .command [0, 0, 0, 0] :: [] ∧
    ∀ o, ¬ IsFrameOf o [0, 0, 0, 0] := ⟨rfl, no_row_of_zeros⟩

theorem witness_EveryFrameGetsOneResponse : (waiting []).Inv ∧ (waiting []).inbox = .command [] :: [] := by decide +kernel

theorem witness_StepKeepsInvariant : (waiting [0x03, 0, 0, 0]).Inv ∧ ∃ t, step (waiting [0x03, 0, 0, 0]) = .next t :=
  ⟨by decide +kernel, _, rfl⟩

/-- A reset draw with no cell zero. -/
def draw : ResetDraw := { acc := iota, buf := List.replicate 192 0x5A }

/-- A reset, then FINAL, waiting. -/
def resetting : State := { small iota 300 108 with inbox := [.reset draw, .command [0x03, 0, 0, 0]] }

theorem witness_ResetEventLeavesResetValues : resetting.inbox = .reset draw :: [.command [0x03, 0, 0, 0]] ∧
    draw.buf.length = 192 := by decide +kernel

theorem witness_FinalStraightAfterReset : resetting.inbox = .reset draw :: .command [0x03, 0, 0, 0] :: [] := rfl

theorem witness_LanesAreLittleEndian : 0 + 8 ≤ (zeros 8).length := by decide

theorem witness_PadBlockLayout : ([] : List Byte).length ≤ 95 ∧ (zeros 95).length ≤ 95 := by decide +kernel

theorem witness_BufferReadsAndWrites : Memory.wf [(0, 1), (191, 2)] ∧ 191 + ([7] : List Byte).length ≤ 192 ∧
    192 + ([] : List Byte).length ≤ 192 ∧ 0 + 192 ≤ 192 := by decide +kernel

theorem witness_CanonicalBuffersAreEqual : Memory.wf [(5, 1)] ∧
    ∀ k, k < 192 → Memory.read [(5, 1)] k = Memory.read (Memory.write [] 5 1) k := ⟨by decide +kernel, fun _ _ => rfl⟩

theorem witness_path_payloads : ([] : List Byte).length < 2 ^ 31 ∧ (zeros 191).length < 192 ∧ 192 ≤ (zeros 192).length ∧
    (zeros 192).length < 2 ^ 31 := by decide +kernel

theorem witness_NegativeLenIsRejected : (Instr.hash128 (.negative 0x80000000) 1 2).range? = some (.negative 0x80000000) := rfl

theorem witness_PureCommandsIgnoreTheState : isPure (.shortmix { a := 1, b := 2, c := 3, d := 4 }) = true := rfl

/-- The short route's edge: 191 bytes in all. -/
theorem witness_UpdateShortRoute : (small iota 300 108).Inv ∧
    (small iota 300 108).length.toNat + (zeros 83).length ≤ 2147483647 ∧
    (zeros 83).length + (small iota 300 108).remainder.toNat < 192 := by decide +kernel

/-- The long route's edges: 192 bytes in all, with and without buffered ones, before and after the crossing, and at the
cap. -/
theorem witness_UpdateLongRoute : (small iota 0x7FFFFFAB 108).Inv ∧
    (small iota 0x7FFFFFAB 108).length.toNat + (zeros 84).length ≤ 2147483647 ∧
    192 ≤ (zeros 84).length + (small iota 0x7FFFFFAB 108).remainder.toNat ∧
    State.reset.Inv ∧ 192 ≤ (zeros 192).length + State.reset.remainder.toNat := by decide +kernel

theorem witness_EmptyUpdateChangesNothing : (small iota 0x7FFFFFFF 191).Inv := by decide +kernel

theorem witness_LengthNeverPassesTheCap : (small iota 0x7FFFFFFA 26).Inv ∧ (zeros 6).length < 2 ^ 31 ∧
    (small iota 0x7FFFFFFA 26).length.toNat + (zeros 6).length > 2147483647 ∧
    (small iota 0x7FFFFFFA 26).length.toNat + (zeros 5).length ≤ 2147483647 := by decide +kernel

theorem witness_FinalFinishes : (small iota 191 191).Inv ∧ (small iota 191 191).length.toNat < 192 ∧
    (small iota 287 95).Inv ∧ 192 ≤ (small iota 287 95).length.toNat ∧ (small iota 287 95).remainder.toNat < 96 ∧
    (small iota 288 96).Inv ∧ 192 ≤ (small iota 288 96).length.toNat ∧ 96 ≤ (small iota 288 96).remainder.toNat := by
  decide +kernel

theorem witness_FinalIsIdempotentAndNonDestructive : State.reset.Inv ∧ (zeros 1).length + (zeros 2).length ≤ 2147483647 := by
  decide +kernel

/-- The edges of the two checks: `length = −2^31`, `remainder = 192`, and both at their largest. -/
theorem witness_RestoreChecksThenWritesAll : State.reset.Inv ∧
    (zeros 288 ++ [0, 0, 0, 0x80, 0xBF, 0, 0, 0]).length = 296 ∧
    2 ^ 31 ≤ (le32 (zeros 288 ++ [0, 0, 0, 0x80, 0xBF, 0, 0, 0]) 288).toNat ∧
    192 ≤ (le32 (zeros 288 ++ [0, 0, 0, 0, 0xC0, 0, 0, 0]) 292).toNat ∧
    (le32 (zeros 288 ++ [0xFF, 0xFF, 0xFF, 0x7F, 0xBF, 0, 0, 0]) 288).toNat < 2 ^ 31 ∧
    (le32 (zeros 288 ++ [0xFF, 0xFF, 0xFF, 0x7F, 0xBF, 0, 0, 0]) 292).toNat < 192 := by decide +kernel

theorem witness_SaveThenRestoreResumes : (small iota 300 108).Inv ∧ State.reset.Inv := by decide +kernel

/-- 192 zero bytes. -/
def twoBlocks : List Byte := zeros 192

/-- The state of the stream of two zero blocks. -/
def absorbedState : State := { State.reset with acc := absorbBlocks 2 twoBlocks (seedInit 1 2), length := 192 }

/-- The state of the stream `"a"` with seeds (1, 2). -/
def bufferedState : State := small (setLane (setLane iota 0 1) 1 2) 1 1

theorem buffered_stream : Absorbed 1 2 [0x61] bufferedState :=
  ⟨by decide +kernel, fun _ => by decide +kernel, fun h => absurd h (by decide)⟩

theorem absorbed_stream : Absorbed 1 2 twoBlocks absorbedState :=
  ⟨by decide +kernel, fun h => absurd h (by decide +kernel),
    fun _ => ⟨2, by decide, by decide +kernel, rfl, by decide +kernel⟩⟩

theorem witness_UpdateExtendsTheStream : bufferedState.Inv ∧ Absorbed 1 2 [0x61] bufferedState ∧ absorbedState.Inv ∧
    Absorbed 1 2 twoBlocks absorbedState ∧ twoBlocks.length + (zeros 96).length ≤ 2147483647 :=
  ⟨by decide +kernel, buffered_stream, by decide +kernel, absorbed_stream, by decide +kernel⟩

theorem witness_FinalDigestsTheStream : bufferedState.Inv ∧ Absorbed 1 2 [0x61] bufferedState ∧ absorbedState.Inv ∧
    Absorbed 1 2 twoBlocks absorbedState :=
  ⟨by decide +kernel, buffered_stream, by decide +kernel, absorbed_stream⟩

theorem witness_StreamEqualsOneShot : State.reset.Inv ∧ ([[0x61], [], [0x62]] : List (List Byte)).flatten.length ≤ 2147483647 := by
  decide +kernel

theorem witness_SplitUpdateSameDigest : (small iota 300 108).Inv ∧ (small iota 300 108).Consistent ∧
    (small iota 300 108).length.toNat + (zeros 84).length + (zeros 150).length ≤ 2147483647 := by decide +kernel

theorem witness_SplitUpdateSameRemainder : State.reset.Inv ∧ State.reset.Consistent ∧
    State.reset.length.toNat + (zeros 1).length + (zeros 2).length ≤ 2147483647 ∧
    (∃ t, exec (.update (.present (zeros 1 ++ zeros 2))) State.reset = .next t) ∧
    ∃ u, exec (.update (.present (zeros 1))) State.reset = .next u ∧
      ∃ v, exec (.update (.present (zeros 2))) u = .next v :=
  ⟨by decide +kernel, by decide +kernel, by decide +kernel, ⟨_, rfl⟩, ⟨_, rfl, _, rfl⟩⟩

/-- `remainder` after two UPDATEs of zero bytes from reset, and after one of both together (R132). -/
def splitRemainder (x y : Nat) (r : BitVec 8) : Bool :=
  nextHas (execAll [.update (.present (zeros x)), .update (.present (zeros y))] State.reset) fun v => v.remainder == r

/-- Each clause at its edges: 191 bytes stay in the buffer; 192 and 95 leave 95; 192 and 96 leave 96, and 0 at once. -/
theorem witness_SplitUpdateStateCompared : State.reset.Inv ∧ State.reset.Consistent ∧
    State.reset.length.toNat + 192 + 96 ≤ 2147483647 ∧
    splitRemainder 0 191 191 = true ∧ splitRemainder 192 95 95 = true ∧ splitRemainder 192 96 96 = true ∧
    splitRemainder 0 288 0 = true := by decide +kernel

/-- `seq(n, start k)`: the bytes `(k + i) mod 256` (R71). -/
def seqFrom (k n : Nat) : List Byte := (List.range n).map fun i => BitVec.ofNat 8 (k + i)

/-- 95_test_vectors.md B7, the row `UPDATE seq(288)`; `UPDATE seq(96, start 32)` after `INIT 1, 2`: the second UPDATE stays
in the buffer, so `remainder` is 96 and the accumulators are still those of 288 bytes. -/
theorem test_split_update_keeps_block_buffered :
    nextHas (execAll [.init 1 2, .update (.present (seqFrom 0 288)), .update (.present (seqFrom 32 96))] State.reset)
      (fun v => v.length == 384 && v.remainder == 96 &&
        lane v.acc 0 == 0xBCC83FC3F3816866 && lane v.acc 1 == 0x441E5A4F4FC30E1E) = true := by decide +kernel

/-- Differs from `small iota 0 0` in a stale accumulator and two stale buffer cells. -/
def staleState : State := { small (setLane iota 5 9) 0 0 with buf := [(191, 7)] }

theorem witness_StaleCellsNeverShow : staleState.Inv ∧ (small iota 0 0).Inv ∧ staleState.Consistent ∧
    SameLive staleState (small iota 0 0) ∧
    (Instr.update (.present [1])).wellFormed = true ∧ Instr.update (.present [1]) ≠ .save :=
  ⟨by decide +kernel, by decide +kernel, by decide +kernel,
    ⟨rfl, rfl, by decide, by decide, fun h => absurd h (by decide), fun k hk => absurd hk (by simp [staleState, small])⟩,
    by decide +kernel, by decide⟩

theorem witness_CountersStayConsistent : (small iota 300 108).Inv ∧ (small iota 300 108).Consistent ∧
    isRestore (.init 1 2) = false ∧ ∃ t, exec (.init 1 2) (small iota 300 108) = .next t :=
  ⟨by decide +kernel, by decide +kernel, rfl, _, rfl⟩

theorem witness_EachErrorHasItsCause : (small iota 0x7FFFFFFF 31).Inv ∧
    (Instr.update (.present [0x78])).wellFormed = true := by decide +kernel

/-- UPDATE of one byte, waiting at the cap. -/
def atTheCap : State := { small iota 0x7FFFFFFF 31 with inbox := [.command [0x02, 1, 0, 0, 1, 0, 0, 0, 0x78]] }

theorem witness_ErrorPriority :
    (∀ f, (waiting f).inbox = .command f :: []) ∧ (∀ o, ¬ IsFrameOf o [0, 0, 0, 0]) ∧
    IsFrameOf .update [0x02, 0, 0, 0, 0, 0, 0, 0x80] ∧ headerP (header [0x02, 0, 0, 0, 0, 0, 0, 0x80]) = false ∧
    IsFrameOf .update negativeFrame ∧ headerP (header negativeFrame) = true ∧
    2 ^ 31 ≤ (lenField .update negativeFrame).toNat ∧
    IsFrameOf .restore (restoreFrame [0, 0, 0, 0, 0xC0, 0, 0, 0]) ∧
    192 ≤ (le32 (restoreFrame [0, 0, 0, 0, 0xC0, 0, 0, 0]) 296).toNat ∧
    2 ^ 31 ≤ (le32 (restoreFrame [0, 0, 0, 0x80, 0, 0, 0, 0]) 292).toNat ∧
    atTheCap.inbox = .command [0x02, 1, 0, 0, 1, 0, 0, 0, 0x78] :: [] ∧
    IsFrameOf .update [0x02, 1, 0, 0, 1, 0, 0, 0, 0x78] ∧ headerP (header [0x02, 1, 0, 0, 1, 0, 0, 0, 0x78]) = true ∧
    (lenField .update [0x02, 1, 0, 0, 1, 0, 0, 0, 0x78]).toNat < 2 ^ 31 ∧
    atTheCap.length.toNat + (lenField .update [0x02, 1, 0, 0, 1, 0, 0, 0, 0x78]).toNat > 2147483647 :=
  ⟨fun _ => rfl, no_row_of_zeros, by decide +kernel⟩

theorem witness_RejectedFrameChangesNothing : (waiting [0x06, 0, 0, 0]).inbox = .command [0x06, 0, 0, 0] :: [] ∧
    ∃ t, step (waiting [0x06, 0, 0, 0]) = .next t := ⟨rfl, _, rfl⟩

theorem witness_OnlyThreeCommandsWriteState : (∃ t, exec .final State.reset = .next t) ∧
    (∀ a b, Instr.final ≠ .init a b) ∧ (∀ r, Instr.final ≠ .update r) ∧ ∀ im, Instr.final ≠ .restore im :=
  ⟨⟨_, rfl⟩, nofun, nofun, nofun⟩

end Sys2Proof.Tests
end

