-- ==== Sys2Proof/Proofs/Scope.lean ====
section
/-! PROOFS. 00_scope.md: the rotation (R10) and the shifts of non-lane values (R11). -/

namespace Sys2Proof.Machine

/-- R10, the two logical shifts as arithmetic. -/
theorem toNat_rol (x : Word) (k : Nat) :
    (rol x k).toNat = (x.toNat * 2 ^ k % 2 ^ 64) ||| (x.toNat / 2 ^ (64 - k)) := by
  rw [rol, BitVec.toNat_or, BitVec.toNat_shiftLeft, BitVec.toNat_ushiftRight, Nat.shiftLeft_eq,
    Nat.shiftRight_eq_div_pow]

/-- For every count R10 gives a meaning, `rol` is the library's rotation, so its bit lemmas apply. -/
theorem rol_eq_rotateLeft (x : Word) {k : Nat} (hk : k < 64) : rol x k = x.rotateLeft k :=
  (BitVec.rotateLeft_eq_rotateLeftAux_of_lt hk).symm

/-- R10, bit by bit: a bit that stays below 64 comes from the left shift, one that wraps comes from the right shift. -/
theorem getLsbD_rol (x : Word) {j k : Nat} (hj : j < 64) (hk : k < 64) :
    (rol x k).getLsbD ((j + k) % 64) = x.getLsbD j := by
  rw [rol_eq_rotateLeft x hk, BitVec.getLsbD_rotateLeft_of_le hk]
  rcases Nat.lt_or_ge (j + k) 64 with hstays | hwraps
  · have hhigh : ¬ j + k < k := by omega
    simp only [Nat.mod_eq_of_lt hstays, hhigh, hstays, decide_false, decide_true, cond_false, Bool.true_and,
      Nat.add_sub_cancel]
  · have hmod : (j + k) % 64 = j + k - 64 := by omega
    have hlow : j + k - 64 < k := by omega
    have hsource : 64 - k + (j + k - 64) = j := by omega
    simp only [hmod, hlow, hsource, decide_true, cond_true]

/-- R10: "every rotation count used by the hardware is a constant between 5 and 63", over the four schedules. -/
theorem rotation_counts_in_range :
    ∀ k ∈ mixRotations.toList ++ endRotations.toList ++ SpecForms.shortMixRotations ++ SpecForms.shortEndRotations,
      5 ≤ k ∧ k ≤ 63 := by
  decide

/-- R11: of the length only its low byte is left, in bits 63:56. -/
theorem toNat_lengthByte (len : Nat) : (lengthByte len).toNat = len % 256 * 2 ^ 56 := by
  rw [lengthByte, BitVec.toNat_shiftLeft, BitVec.toNat_ofNat, Nat.shiftLeft_eq]
  omega

/-- Settles O12: the arithmetic form, the bit movement and the range of the counts are the three lemmas above. -/
theorem rolMovesBits : Obligations.RolMovesBits :=
  ⟨fun x k _ hk => ⟨toNat_rol x k, fun _ hj => getLsbD_rol x hj hk⟩, rotation_counts_in_range⟩

/-- Settles O14: `toNat_lengthByte` for the length word; a count below 96 is below 2^8, so truncation keeps it. -/
theorem lengthByteOnTop : Obligations.LengthByteOnTop := by
  refine ⟨toNat_lengthByte, fun rem hrem => ?_⟩
  have hbyte : rem < 2 ^ 8 := by omega
  rw [BitVec.toNat_ofNat, Nat.mod_eq_of_lt hbyte]

end Sys2Proof.Machine
end

/-! PROOFS. 10_state.md: the state invariant (R24 to R26), the stream a state stands for (R26, R27), stale cells (R27 (viii))
and which commands write state (R21, R23). First the buffer and the counters, then one lemma per command that says what it
does, then the obligations. -/

namespace Sys2Proof.Machine

/-! ### The buffer -/

/-- A read of `a + b` cells is a read of `a` cells and one of the `b` cells after them. -/
theorem Memory.readBytes_add (m : Memory) (off a b : Nat) :
    m.readBytes off (a + b) = m.readBytes off a ++ m.readBytes (off + a) b := by
  induction a generalizing off with
  | zero => simp [Memory.readBytes]
  | succ a ih =>
    have hcount : a + 1 + b = (a + b) + 1 := by omega
    have hoff : off + (a + 1) = off + 1 + a := by omega
    rw [hcount, Memory.readBytes, Memory.readBytes, ih, hoff, List.cons_append]

/-- Bytes written are read back (R44). -/
theorem Memory.readBytes_writeBytes {m : Memory} (hs : m.Pairwise (fun c d => c.1 < d.1)) (off : Nat)
    (bytes : List Byte) : (m.writeBytes off bytes).readBytes off bytes.length = bytes := by
  refine List.ext_getElem (by simp) fun j _ hj => ?_
  have hin : off ≤ off + j ∧ off + j < off + bytes.length := by omega
  rw [Memory.getElem_readBytes, Memory.read_writeBytes hs, dif_pos hin]
  simp

/-- Bytes written behind the first `n` cells extend what those cells hold. -/
theorem Memory.readBytes_writeBytes_append {m : Memory} (hs : m.Pairwise (fun c d => c.1 < d.1)) (n : Nat)
    (bytes : List Byte) :
    (m.writeBytes n bytes).readBytes 0 (n + bytes.length) = m.readBytes 0 n ++ bytes := by
  have hfront : (m.writeBytes n bytes).readBytes 0 n = m.readBytes 0 n :=
    Memory.readBytes_congr fun k _ hk => by
      rw [Memory.read_writeBytes hs, dif_neg (by omega)]
  rw [Memory.readBytes_add, hfront, Nat.zero_add, Memory.readBytes_writeBytes hs]

/-- Equal reads are reads of equal cells. -/
theorem Memory.read_eq_of_readBytes_eq {m m' : Memory} {n k : Nat} (h : m'.readBytes 0 n = m.readBytes 0 n)
    (hk : k < n) : m'.read k = m.read k := by
  have hget (x : Memory) : (x.readBytes 0 n)[k]? = some (x.read k) := by
    rw [List.getElem?_eq_getElem (by simpa using hk), Memory.getElem_readBytes, Nat.zero_add]
  have heq := congrArg (·[k]?) h
  simpa only [hget, Option.some.injEq] using heq

/-- The cells a canonical buffer lists are those that do not read as an unlisted one. -/
theorem Memory.mem_iff_read {m : Memory} (hm : m.wf) (c : Host.Cell) :
    c ∈ m ↔ m.read c.1 = c.2 ∧ c.2 ≠ Config.unwrittenByte := by
  induction m with
  | nil =>
    simp only [List.not_mem_nil, Memory.read, false_iff, not_and, not_not]
    exact Eq.symm
  | cons d m ih =>
    obtain ⟨⟨hlt, hsorted⟩, hcells⟩ := And.imp_left List.pairwise_cons.mp hm
    have htail := ih ⟨hsorted, fun c hc => hcells c (List.mem_cons_of_mem _ hc)⟩
    by_cases hd : d.1 = c.1
    · have hmiss : c ∉ m := fun hc => absurd (hlt c hc) (by omega)
      simp only [List.mem_cons, hmiss, or_false, Memory.read, hd, if_true]
      refine ⟨?_, fun ⟨hv, _⟩ => Prod.ext hd.symm hv.symm⟩
      rintro rfl
      exact ⟨rfl, (hcells c (by simp)).2⟩
    · have hne : c ≠ d := fun h => hd (by rw [h])
      simp only [List.mem_cons, hne, false_or, Memory.read, hd, if_false, htail]

/-- Canonical buffers that read the same in the 192 cells are the same data (notes/assumptions/6.md). -/
theorem Memory.eq_of_read_eq {m m' : Memory} (hm : m.wf) (hm' : m'.wf)
    (h : ∀ k, k < 192 → m.read k = m'.read k) : m = m' := by
  have hsub {x y : Memory} (hx : x.wf) (hy : y.wf) (hxy : ∀ k, k < 192 → x.read k = y.read k) : x ⊆ y := fun c hc => by
    obtain ⟨hread, hv⟩ := (Memory.mem_iff_read hx c).mp hc
    exact (Memory.mem_iff_read hy c).mpr ⟨by rw [← hxy _ (hx.2 c hc).1, hread], hv⟩
  have hirr : Std.Irrefl fun c d : Host.Cell => c.1 < d.1 := ⟨fun c => lt_irrefl c.1⟩
  have hanti : Std.Antisymm fun c d : Host.Cell => c.1 < d.1 := ⟨fun c d h h' => absurd h (by omega)⟩
  exact (hsub hm hm' h).antisymm_of_pairwise hm.1 hm'.1 (hsub hm' hm fun k hk => (h k hk).symm)

/-- Writing all 192 cells forgets what the buffer held. -/
theorem Memory.writeBytes_all_eq {m m' : Memory} (hm : m.wf) (hm' : m'.wf) {bytes : List Byte}
    (hlen : bytes.length = 192) : m.writeBytes 0 bytes = m'.writeBytes 0 bytes := by
  refine Memory.eq_of_read_eq (Memory.writeBytes_wf hm (by omega)) (Memory.writeBytes_wf hm' (by omega)) fun k hk => ?_
  rw [Memory.read_writeBytes hm.1, Memory.read_writeBytes hm'.1, dif_pos (by omega), dif_pos (by omega)]

/-! ### The counters and the buffered bytes -/

/-- A length within the cap fits its 32-bit register (R24). -/
theorem toNat_length_of_le_cap {n : Nat} (h : n ≤ Config.lenMax) : (BitVec.ofNat 32 n).toNat = n := by
  rw [BitVec.toNat_ofNat, Nat.mod_eq_of_lt (by simp only [Config.lenMax] at h; omega)]

/-- A remainder below 192 fits its 8-bit register (R25). -/
theorem toNat_remainder_of_lt {n : Nat} (h : n < Config.bufSize) : (BitVec.ofNat 8 n).toNat = n := by
  rw [BitVec.toNat_ofNat, Nat.mod_eq_of_lt (by simp only [Config.bufSize] at h; omega)]

/-- The bytes absorbed and not yet mixed: `buf[0, remainder)` (R25, R27). -/
def State.buffered (s : State) : List Byte := s.buf.readBytes 0 s.remainder.toNat

@[simp] theorem State.buffered_length (s : State) : s.buffered.length = s.remainder.toNat :=
  Memory.readBytes_length ..

/-! ### UPDATE's two routes -/

/-- What UPDATE's short route leaves of a state with the invariant (R132 step 1). -/
structure ShortRoute (m : List Byte) (s u : State) : Prop where
  fits : m.length + s.remainder.toNat < 192
  length_eq : u.length.toNat = s.length.toNat + m.length
  remainder_eq : u.remainder.toNat = s.remainder.toNat + m.length
  acc_eq : u.acc = s.acc
  buffered_eq : u.buffered = s.buffered ++ m
  buf_wf : u.buf.wf
  responses_eq : u.responses = s.responses

/-- What UPDATE's long route leaves of a state with the invariant: every whole block of the buffered bytes followed by the
payload is absorbed, the rest is buffered (R132 steps 2 to 7). -/
structure LongRoute (m : List Byte) (s u : State) : Prop where
  full : 192 ≤ m.length + s.remainder.toNat
  length_eq : u.length.toNat = s.length.toNat + m.length
  remainder_eq : u.remainder.toNat = (s.remainder.toNat + m.length) % 96
  acc_eq : u.acc = absorbBlocks ((s.remainder.toNat + m.length) / 96) (s.buffered ++ m) (workingLanes s)
  buffered_eq : u.buffered = (s.buffered ++ m).drop (96 * ((s.remainder.toNat + m.length) / 96))
  buf_wf : u.buf.wf
  responses_eq : u.responses = s.responses

theorem updateShort_spec {m : List Byte} {s : State} (hs : s.Inv) (hcap : s.length.toNat + m.length ≤ Config.lenMax)
    (hfit : m.length + s.remainder.toNat < Config.bufSize) :
    ∃ u, updateShort m s = .ok u ∧ ShortRoute m s u := by
  obtain ⟨hbuf, _, _⟩ := hs
  have hwrite : s.remainder.toNat + m.length ≤ 192 := by simp only [Config.bufSize] at hfit; omega
  have hrem := toNat_remainder_of_lt hfit
  refine ⟨((s.setBuf (s.buf.writeBytes s.remainder.toNat m)).setRemainder (m.length + s.remainder.toNat)).setLength
    (s.length.toNat + m.length), by rw [updateShort, bufWrite_ok _ hwrite], hfit, toNat_length_of_le_cap hcap, ?_, rfl, ?_,
    Memory.writeBytes_wf hbuf hwrite, rfl⟩
  · exact hrem.trans (Nat.add_comm ..)
  · simp only [State.buffered, State.setLength_buf, State.setLength_remainder, State.setRemainder_buf,
      State.setRemainder_remainder, State.setBuf_buf, hrem]
    rw [Nat.add_comm, Memory.readBytes_writeBytes_append hbuf.1]

/-- Filling a buffer that is not empty from the payload leaves the first two blocks of the buffered bytes followed by the
payload in it (R132 step 4). -/
theorem filled_blocks {m : List Byte} {s : State} (hs : s.Inv) (hfull : 192 ≤ m.length + s.remainder.toNat)
    {buf : Memory} (hbuf : buf = s.buf.writeBytes s.remainder.toNat (m.take (192 - s.remainder.toNat))) :
    s.buffered ++ m = buf.readBytes 0 96 ++ (buf.readBytes 96 96 ++ m.drop (192 - s.remainder.toNat)) := by
  obtain ⟨hwf, hrem, _⟩ := hs
  have htake : s.remainder.toNat + (m.take (192 - s.remainder.toNat)).length = 96 + 96 := by
    simp only [Config.bufSize] at hrem
    rw [List.length_take]
    omega
  have hread := Memory.readBytes_writeBytes_append hwf.1 s.remainder.toNat (m.take (192 - s.remainder.toNat))
  rw [htake, Memory.readBytes_add, Nat.zero_add, ← hbuf] at hread
  rw [← List.append_assoc, hread, List.append_assoc, List.take_append_drop, State.buffered]

/-- Step 4 of the long route absorbs some whole blocks of the buffered bytes followed by the payload and leaves the bytes
after them: none if the buffer is empty, else two (R132). -/
theorem drainBuffer_spec {m : List Byte} {s : State} (hs : s.Inv) (h : Lanes)
    (hfull : 192 ≤ m.length + s.remainder.toNat) :
    ∃ buf k, Memory.wf buf ∧ 96 * k ≤ s.remainder.toNat + m.length ∧
      drainBuffer m h s = .ok (buf, absorbBlocks k (s.buffered ++ m) h, (s.buffered ++ m).drop (96 * k)) := by
  obtain ⟨hwf, hrem, _⟩ := id hs
  by_cases hpos : s.remainder.toNat > 0
  · have hfill : s.remainder.toNat + (m.take (192 - s.remainder.toNat)).length ≤ 192 := by
      simp only [Config.bufSize] at hrem
      rw [List.length_take]
      omega
    refine ⟨_, 2, Memory.writeBytes_wf hwf hfill, by omega, ?_⟩
    rw [filled_blocks hs hfull rfl]
    simp [drainBuffer, hpos, bufWrite_ok _ hfill, bufRead_ok, absorbBlocks, List.drop_append]
  · have hempty : s.buffered = [] := List.length_eq_zero_iff.mp (by rw [State.buffered_length]; omega)
    exact ⟨s.buf, 0, hwf, by omega, by simp [drainBuffer, hpos, hempty, absorbBlocks]⟩

/-- After `k` whole blocks of a stream, the whole blocks of what follows are the stream's other ones. -/
theorem blocks_of_drop {k : Nat} {stream : List Byte} (hk : 96 * k ≤ stream.length) :
    k + (stream.drop (96 * k)).length / 96 = stream.length / 96 := by
  rw [List.length_drop]
  omega

/-- The bytes of a stream behind its whole blocks are fewer than a block. -/
theorem length_drop_blocks (stream : List Byte) :
    (stream.drop (96 * (stream.length / 96))).length = stream.length % 96 := by
  rw [List.length_drop]
  omega

theorem updateLong_spec {m : List Byte} {s : State} (hs : s.Inv) (hcap : s.length.toNat + m.length ≤ Config.lenMax)
    (hfull : 192 ≤ m.length + s.remainder.toNat) :
    ∃ u, updateLong m s = .ok u ∧ LongRoute m s u := by
  obtain ⟨buf, k, hbuf, hk, hdrain⟩ := drainBuffer_spec hs (workingLanes s) hfull
  have hlen : s.remainder.toNat + m.length = (s.buffered ++ m).length := by simp
  rw [hlen] at hk
  have hblocks := blocks_of_drop hk
  have htailLen := length_drop_blocks (s.buffered ++ m)
  generalize htail : (s.buffered ++ m).drop (96 * ((s.buffered ++ m).length / 96)) = tail at htailLen
  have hwrite : 0 + tail.length ≤ 192 := by omega
  have hrem : (BitVec.ofNat 8 tail.length).toNat = tail.length :=
    toNat_remainder_of_lt (by simp only [Config.bufSize]; omega)
  refine ⟨(((s.setBuf (buf.writeBytes 0 tail)).setRemainder tail.length).setLength (s.length.toNat + m.length)).setAcc
    (absorbBlocks ((s.buffered ++ m).length / 96) (s.buffered ++ m) (workingLanes s)), ?_, ?_⟩
  · simp only [updateLong, hdrain, List.drop_drop, ← Nat.mul_add, ← absorbBlocks_add, hblocks, htail,
      bufWrite_ok _ hwrite]
  · refine ⟨hfull, toNat_length_of_le_cap hcap, ?_, by rw [hlen]; rfl, ?_,
      Memory.writeBytes_wf hbuf hwrite, rfl⟩
    · rw [hlen, ← htailLen]
      exact hrem
    · rw [hlen, htail]
      exact (congrArg _ hrem).trans (Memory.readBytes_writeBytes hbuf.1 0 tail)

/-! ### What a command writes -/

/-- The state INIT leaves (R131). -/
def State.begun (seed1 seed2 : Word) (s : State) : State :=
  ((s.setLength 0).setRemainder 0).setAcc (setLane (setLane s.acc 0 seed1) 1 seed2)

/-- The state an accepted RESTORE leaves (R138). -/
def State.restored (im : List Byte) (s : State) : State :=
  (((s.setBuf (s.buf.writeBytes 0 (im.take 192))).setAcc (lanesAt im 192)).setLength (imageLength im).toNat).setRemainder
    (imageRemainder im).toNat

/-- RESTORE accepts the image: both counters, read as signed numbers, are in range (R138). -/
abbrev RestoreAccepts (im : List Byte) : Prop :=
  0 ≤ (imageLength im).toInt ∧ 0 ≤ (imageRemainder im).toInt ∧ (imageRemainder im).toInt ≤ 191

/-- The state with another host at its ports. -/
def State.withPorts (inputs : List Input) (frames : List Frame) (s : State) : State :=
  { s with inbox := inputs, responses := frames }

/-- What a command that completes can have written, its response aside: `Writes i s u` says that the hardware state went
from `s` to that of `u`. -/
inductive Writes : Instr → State → State → Prop
  | nothing (i : Instr) (s : State) : Writes i s s
  | init (seed1 seed2 : Word) (s : State) : Writes (.init seed1 seed2) s (s.begun seed1 seed2)
  | short {m : List Byte} {s u : State} (hcap : s.length.toNat + m.length ≤ Config.lenMax)
      (hfit : m.length + s.remainder.toNat < Config.bufSize) (h : updateShort m s = .ok u) :
      Writes (.update (.present m)) s u
  | long {m : List Byte} {s u : State} (hcap : s.length.toNat + m.length ≤ Config.lenMax)
      (hfull : Config.bufSize ≤ m.length + s.remainder.toNat) (h : updateLong m s = .ok u) :
      Writes (.update (.present m)) s u
  | restore {im : List Byte} (s : State) (h : RestoreAccepts im) : Writes (.restore im) s (s.restored im)

/-- The command completes alike whatever the host's side of the ports holds: it writes `u`'s hardware state and presents
`frame`. -/
def Completes (i : Instr) (s u : State) (frame : Frame) : Prop :=
  ∀ inputs frames,
    exec i (s.withPorts inputs frames) = .next ((u.withPorts inputs frames).pushResponse frame)

/-- The command stops alike whatever the host's side of the ports holds. -/
def Stops (i : Instr) (s : State) : Prop :=
  ∃ e, ∀ inputs frames, exec i (s.withPorts inputs frames) = .fault e

/-- A pure command's end looks at no state (R171). -/
theorem conclude_ignores_state (r : Except CommandError (List Byte)) :
    ∃ frame, ∀ s, conclude r s = .next (s.pushResponse frame) := by
  cases r with
  | ok result => exact ⟨okFrame result, fun _ => rfl⟩
  | error e => exact ⟨errorFrame e, fun _ => rfl⟩

/-- A pure command answers from its operands alone and writes nothing (R68, R171). -/
theorem exec_of_isPure {i : Instr} (h : isPure i = true) : ∃ frame, ∀ s, exec i s = .next (s.pushResponse frame) := by
  cases i with
  | init | update | final | save | restore => cases h
  | hash128 range seed1 seed2 => exact conclude_ignores_state ((hash128 range seed1 seed2).map bytesOfDigest)
  | hash64 range seed => exact conclude_ignores_state ((hash64 range seed).map bytesOf64)
  | hash32 range seed => exact conclude_ignores_state ((hash32 range seed).map bytesOf32)
  | short range seed1 seed2 => exact conclude_ignores_state (runPath shortPath range seed1 seed2)
  | long range seed1 seed2 => exact conclude_ignores_state (runPath longPath range seed1 seed2)
  | mixblock lanes block => exact ⟨okFrame (bytesOfLanes (mixBlock lanes (lanes12 block))), fun _ => rfl⟩
  | endpartial lanes => exact ⟨okFrame (bytesOfLanes (endPartial lanes)), fun _ => rfl⟩
  | endMix lanes block => exact ⟨okFrame (bytesOfLanes (endFinal lanes (lanes12 block))), fun _ => rfl⟩
  | shortmix q => exact ⟨okFrame (bytesOfQuad (shortMix q)), fun _ => rfl⟩
  | shortend q => exact ⟨okFrame (bytesOfQuad (shortEnd q)), fun _ => rfl⟩

theorem exec_init (seed1 seed2 : Word) (s : State) :
    exec (.init seed1 seed2) s = .next ((s.begun seed1 seed2).pushResponse (okFrame [])) := rfl

/-- UPDATE of anything but a payload within the cap is rejected, the same in every state of this length (R132, R133,
R166). -/
theorem exec_update_rejected {range : ByteRange} {s : State}
    (h : ∀ m, range = .present m → Config.lenMax < s.length.toNat + m.length) :
    ∃ e, ∀ t : State, t.length = s.length → exec (.update range) t = .next (t.pushResponse (errorFrame e)) := by
  rcases payloadOf_cases range with ⟨_, _, hp⟩ | ⟨m, hm, _, hp⟩ | hp
  · exact ⟨.nullInput, fun t _ => by simp only [exec, execUpdate, hp]; rfl⟩
  · refine ⟨.lengthOverflow, fun t ht => ?_⟩
    have hcap : t.length.toNat + m.length > Config.lenMax := ht ▸ h m hm
    simp only [exec, execUpdate, hp, if_pos hcap]
    rfl
  · exact ⟨.rangeOutOfBounds, fun t _ => by simp only [exec, execUpdate, hp]; rfl⟩

/-- A payload within the cap is read as such (R65). -/
theorem payloadOf_of_le_cap {m : List Byte} {n : Nat} (hcap : n + m.length ≤ Config.lenMax) :
    payloadOf (.present m) = .ok (some m) :=
  payloadOf_present (by simp only [Config.lenMax] at hcap; omega)

/-- UPDATE within the cap takes the short route when the payload fits (R132 step 1). -/
theorem exec_update_short {m : List Byte} {s : State} (hcap : s.length.toNat + m.length ≤ Config.lenMax)
    (hfit : m.length + s.remainder.toNat < Config.bufSize) :
    exec (.update (.present m)) s = withBuffer (updateShort m s) (answer []) := by
  simp only [exec, execUpdate, payloadOf_of_le_cap hcap, if_neg (Nat.not_lt_of_le hcap), if_pos hfit]

/-- UPDATE within the cap takes the long route when the payload does not fit (R132 steps 2 to 7). -/
theorem exec_update_long {m : List Byte} {s : State} (hcap : s.length.toNat + m.length ≤ Config.lenMax)
    (hfull : Config.bufSize ≤ m.length + s.remainder.toNat) :
    exec (.update (.present m)) s = withBuffer (updateLong m s) (answer []) := by
  simp only [exec, execUpdate, payloadOf_of_le_cap hcap, if_neg (Nat.not_lt_of_le hcap),
    if_neg (Nat.not_lt_of_le hfull)]

/-- SAVE reads cells that exist (R137). -/
theorem exec_save (s : State) :
    exec .save s = .next (s.pushResponse (okFrame (image (s.buf.readBytes 0 192) s))) := by
  simp only [exec, execSave, bufRead_ok s.buf (by omega : 0 + 192 ≤ 192), withBuffer_ok]
  rfl

/-- RESTORE writes every field when both checks pass (R138). -/
theorem exec_restore_accepted {im : List Byte} (h : RestoreAccepts im) (s : State) :
    exec (.restore im) s = .next ((s.restored im).pushResponse (okFrame [])) := by
  obtain ⟨hlen, hrem, hmax⟩ := h
  have hwrite : 0 + (im.take 192).length ≤ 192 := by rw [List.length_take]; omega
  have hrange : ¬ ((imageRemainder im).toInt < 0 ∨ (imageRemainder im).toInt > 191) := by omega
  simp only [exec, execRestore, if_neg (not_lt.mpr hlen), if_neg hrange, bufWrite_ok _ hwrite, withBuffer_ok]
  rfl

/-- RESTORE of an image that fails a check is rejected (R138). -/
theorem exec_restore_rejected {im : List Byte} (h : ¬ RestoreAccepts im) (s : State) :
    exec (.restore im) s = .next (s.pushResponse (errorFrame .rangeOutOfBounds)) := by
  by_cases hlen : (imageLength im).toInt < 0
  · simp only [exec, execRestore, if_pos hlen]
    rfl
  · have hrange : (imageRemainder im).toInt < 0 ∨ (imageRemainder im).toInt > 191 := by
      by_contra hin
      exact h ⟨by omega, by omega, by omega⟩
    simp only [exec, execRestore, if_neg hlen, if_pos hrange]
    rfl

/-- The digest FINAL computes (R134). -/
def finalDigest (s : State) : Except Fault (Word × Word) :=
  if s.length.toNat < Config.bufSize then shortFinish s else longFinish s

theorem exec_final (s : State) :
    exec .final s = withBuffer (finalDigest s) fun d => answer (bytesOfDigest d) s := rfl

theorem finalDigest_withPorts (s : State) (inputs : List Input) (frames : List Frame) :
    finalDigest (s.withPorts inputs frames) = finalDigest s := rfl

theorem updateShort_withPorts (m : List Byte) (s : State) (inputs : List Input) (frames : List Frame) :
    updateShort m (s.withPorts inputs frames) = (updateShort m s).map (State.withPorts inputs frames) := by
  simp only [updateShort, State.withPorts]
  cases bufWrite s.buf s.remainder.toNat m with
  | ok buf => rfl
  | error e => rfl

theorem drainBuffer_withPorts (m : List Byte) (h : Lanes) (s : State) (inputs : List Input) (frames : List Frame) :
    drainBuffer m h (s.withPorts inputs frames) = drainBuffer m h s := rfl

theorem updateLong_withPorts (m : List Byte) (s : State) (inputs : List Input) (frames : List Frame) :
    updateLong m (s.withPorts inputs frames) = (updateLong m s).map (State.withPorts inputs frames) := by
  simp only [updateLong, drainBuffer_withPorts, show workingLanes (s.withPorts inputs frames) = workingLanes s from rfl]
  cases drainBuffer m (workingLanes s) s with
  | error e => rfl
  | ok drained =>
    obtain ⟨buf, h, rest⟩ := drained
    simp only
    cases bufWrite buf 0 (rest.drop (96 * (rest.length / 96))) with
    | ok buf' => rfl
    | error e => rfl

/-- A command whose work is a state with the ports left alone completes with it or stops, whatever the host holds. -/
theorem withBuffer_withPorts {i : Instr} {s : State} (r : Except Fault State)
    (h : ∀ inputs frames, exec i (s.withPorts inputs frames) =
      withBuffer (r.map (State.withPorts inputs frames)) (answer [])) :
    (∃ u, r = .ok u ∧ Completes i s u (okFrame [])) ∨ Stops i s := by
  cases r with
  | ok u => exact .inl ⟨u, rfl, h⟩
  | error e => exact .inr ⟨e, h⟩

/-- All a command can do, in every state: write one of the things above and present one response, or stop; and the host's
side of the ports has no part in it (R21, R23 to R25, R33). -/
theorem exec_cases (i : Instr) (s : State) : (∃ u frame, Writes i s u ∧ Completes i s u frame) ∨ Stops i s := by
  by_cases hpure : isPure i = true
  · obtain ⟨frame, h⟩ := exec_of_isPure hpure
    exact .inl ⟨s, frame, .nothing i s, fun _ _ => h _⟩
  cases i with
  | init seed1 seed2 => exact .inl ⟨_, _, .init seed1 seed2 s, fun _ _ => rfl⟩
  | update range =>
    by_cases hrej : ∀ m, range = .present m → Config.lenMax < s.length.toNat + m.length
    · obtain ⟨e, h⟩ := exec_update_rejected hrej
      exact .inl ⟨s, _, .nothing _ s, fun _ _ => h _ rfl⟩
    · push Not at hrej
      obtain ⟨m, rfl, hcap⟩ := hrej
      by_cases hfit : m.length + s.remainder.toNat < Config.bufSize
      · exact (withBuffer_withPorts (updateShort m s) fun inputs frames => by
          rw [← updateShort_withPorts]; exact exec_update_short hcap hfit).imp_left
            fun ⟨u, hu, hdone⟩ => ⟨u, _, .short hcap hfit hu, hdone⟩
      · have hfull := Nat.le_of_not_lt hfit
        exact (withBuffer_withPorts (updateLong m s) fun inputs frames => by
          rw [← updateLong_withPorts]; exact exec_update_long hcap hfull).imp_left
            fun ⟨u, hu, hdone⟩ => ⟨u, _, .long hcap hfull hu, hdone⟩
  | final =>
    cases hd : finalDigest s with
    | ok d => exact .inl ⟨s, _, .nothing _ s, fun _ _ => by rw [exec_final, finalDigest_withPorts, hd]; rfl⟩
    | error e => exact .inr ⟨e, fun _ _ => by rw [exec_final, finalDigest_withPorts, hd]; rfl⟩
  | save => exact .inl ⟨s, okFrame (image (s.buf.readBytes 0 192) s), .nothing _ s, fun _ _ => exec_save _⟩
  | restore im =>
    by_cases h : RestoreAccepts im
    · exact .inl ⟨_, _, .restore s h, fun _ _ => exec_restore_accepted h _⟩
    · exact .inl ⟨s, _, .nothing _ s, fun _ _ => exec_restore_rejected h _⟩
  | hash128 | hash64 | hash32 | short | long | mixblock | endpartial | endMix | shortmix | shortend =>
    exact absurd rfl hpure

/-- A command that gives a next state has written one of the things above and presented one response. -/
theorem exec_next {i : Instr} {s t : State} (h : exec i s = .next t) :
    ∃ u frame, Writes i s u ∧ t = (u.withPorts s.inbox s.responses).pushResponse frame := by
  rcases exec_cases i s with ⟨u, frame, hw, hdone⟩ | ⟨e, hstop⟩
  · exact ⟨u, frame, hw, (Host.Outcome.next.inj ((hdone s.inbox s.responses).symm.trans h)).symm⟩
  · cases (hstop s.inbox s.responses).symm.trans h

/-! ### The invariant and the counters -/

theorem shortRoute_of_updateShort {m : List Byte} {s u : State} (hs : s.Inv)
    (hcap : s.length.toNat + m.length ≤ Config.lenMax) (hfit : m.length + s.remainder.toNat < Config.bufSize)
    (h : updateShort m s = .ok u) : ShortRoute m s u := by
  obtain ⟨v, hv, hroute⟩ := updateShort_spec hs hcap hfit
  exact Except.ok.inj (hv.symm.trans h) ▸ hroute

theorem longRoute_of_updateLong {m : List Byte} {s u : State} (hs : s.Inv)
    (hcap : s.length.toNat + m.length ≤ Config.lenMax) (hfull : Config.bufSize ≤ m.length + s.remainder.toNat)
    (h : updateLong m s = .ok u) : LongRoute m s u := by
  obtain ⟨v, hv, hroute⟩ := updateLong_spec hs hcap hfull
  exact Except.ok.inj (hv.symm.trans h) ▸ hroute

/-- The long route leaves less than a block in the buffer (R132 corner case 5). -/
theorem LongRoute.remainder_lt {m : List Byte} {s u : State} (h : LongRoute m s u) : u.remainder.toNat < 96 :=
  h.remainder_eq ▸ Nat.mod_lt _ (by decide)

/-- An accepted image has a `length` with bit 31 clear (R24, R138). -/
theorem RestoreAccepts.length_le {im : List Byte} (h : RestoreAccepts im) : (imageLength im).toNat ≤ Config.lenMax := by
  have hnonneg := h.1
  rw [BitVec.toInt_eq_toNat_cond] at hnonneg
  simp only [Config.lenMax]
  omega

/-- An accepted image has a `remainder` below 192 (R25, R138). -/
theorem RestoreAccepts.remainder_lt {im : List Byte} (h : RestoreAccepts im) :
    (imageRemainder im).toNat < Config.bufSize := by
  obtain ⟨_, hnonneg, hmax⟩ := h
  rw [BitVec.toInt_eq_toNat_cond] at hnonneg hmax
  simp only [Config.bufSize]
  omega

/-- Whatever a command writes, the invariant holds of it (R24 to R26, R46). -/
theorem Writes.inv {i : Instr} {s u : State} (hs : s.Inv) (h : Writes i s u) : u.Inv := by
  cases h with
  | nothing => exact hs
  | init seed1 seed2 => exact ⟨hs.1, (by decide : 0 < 192), Nat.zero_le _⟩
  | short hcap hfit h =>
    have hroute := shortRoute_of_updateShort hs hcap hfit h
    exact ⟨hroute.buf_wf, by rw [hroute.remainder_eq, Nat.add_comm]; exact hfit, by rw [hroute.length_eq]; exact hcap⟩
  | long hcap hfull h =>
    have hroute := longRoute_of_updateLong hs hcap hfull h
    exact ⟨hroute.buf_wf, hroute.remainder_lt.trans (by decide : 96 < 192), by rw [hroute.length_eq]; exact hcap⟩
  | restore _ h =>
    refine ⟨Memory.writeBytes_wf hs.1 (by rw [List.length_take]; omega), ?_, ?_⟩
    · exact (toNat_remainder_of_lt h.remainder_lt).symm ▸ h.remainder_lt
    · exact (toNat_length_of_le_cap h.length_le).symm ▸ h.length_le

/-- Every command keeps the invariant. -/
theorem exec_inv {i : Instr} {s t : State} (hs : s.Inv) (h : exec i s = .next t) : t.Inv := by
  obtain ⟨u, frame, hw, rfl⟩ := exec_next h
  have hu : u.Inv := hw.inv hs
  exact hu

/-- A reset event leaves the invariant, whatever the draw (R34, R180). -/
theorem State.afterReset_inv (draw : ResetDraw) (s : State) : (s.afterReset draw).Inv :=
  ⟨State.afterReset_buf_wf draw s, (by decide : 0 < 192), Nat.zero_le _⟩

/-- The short route keeps the counters consistent: it adds as much to `length` as to `remainder` (R27). -/
theorem ShortRoute.consistent {m : List Byte} {s u : State} (h : ShortRoute m s u) (hc : s.Consistent) :
    u.Consistent := by
  obtain ⟨hfits, hlen, hrem, _, _, _, _⟩ := h
  unfold State.Consistent at hc ⊢
  omega

/-- The long route keeps the counters consistent: what it takes off `remainder` is whole blocks (R27). -/
theorem LongRoute.consistent {m : List Byte} {s u : State} (h : LongRoute m s u) (hc : s.Consistent) :
    u.Consistent := by
  obtain ⟨hfull, hlen, hrem, _, _, _, _⟩ := h
  unfold State.Consistent at hc ⊢
  omega

/-- Whatever a command but RESTORE writes, consistent counters stay consistent (R27). -/
theorem Writes.consistent {i : Instr} {s u : State} (hs : s.Inv) (hc : s.Consistent) (hi : isRestore i = false)
    (h : Writes i s u) : u.Consistent := by
  cases h with
  | nothing => exact hc
  | init seed1 seed2 => exact ⟨fun _ => rfl, fun h => absurd h (by decide : ¬ 192 ≤ 0)⟩
  | short hcap hfit h => exact (shortRoute_of_updateShort hs hcap hfit h).consistent hc
  | long hcap hfull h => exact (longRoute_of_updateLong hs hcap hfull h).consistent hc
  | restore => cases hi

/-- Settles O9: the values of `State.reset`, read off. -/
theorem resetStateHasInvariant : Obligations.ResetStateHasInvariant :=
  ⟨⟨State.reset_buf_wf, by decide, by decide⟩, by decide, rfl, rfl, rfl, rfl⟩

/-- Settles O53: what a command writes (`exec_next`) is nothing but in the three commands. -/
theorem onlyThreeCommandsWriteState : Obligations.OnlyThreeCommandsWriteState := by
  intro s t i h
  obtain ⟨u, frame, hw, rfl⟩ := exec_next h
  refine ⟨rfl, ⟨frame, rfl⟩, fun hinit hupdate hrestore => ?_⟩
  cases hw with
  | nothing => exact ⟨rfl, rfl, rfl, rfl⟩
  | init seed1 seed2 => exact absurd rfl (hinit seed1 seed2)
  | short | long => exact absurd rfl (hupdate _)
  | restore => exact absurd rfl (hrestore _)

/-- Settles O49: consistency speaks of the counters alone, which `exec_next` takes from what the command writes. -/
theorem countersStayConsistent : Obligations.CountersStayConsistent := by
  intro s t i hs hc hi h
  obtain ⟨u, frame, hw, rfl⟩ := exec_next h
  have hu : u.Consistent := hw.consistent hs hc hi
  exact hu

/-- Settles O8, by the inputs a step can take: none, a frame that decodes, a refused one, a reset. -/
theorem stepKeepsInvariant : Obligations.StepKeepsInvariant := by
  intro s t hs h
  rcases takeInput_cases exec decode s with ⟨_, hidle⟩ | ⟨f, rest, _, hframe⟩ | ⟨draw, rest, _, hreset⟩
  · cases hidle.symm.trans h
    exact hs
  · have hrest : (s.setInbox rest).Inv := hs
    rcases runFrame_cases (decode f) exec (s.setInbox rest) with ⟨i, _, hrun⟩ | ⟨_, _, hrun⟩
    · exact exec_inv hrest (hrun.symm.trans (hframe.symm.trans h))
    · cases hrun.symm.trans (hframe.symm.trans h)
      exact hrest
  · cases hreset.symm.trans h
    exact State.afterReset_inv draw _

/-! ### Commands that complete -/

/-- From a state with the invariant an UPDATE within the cap completes, by one of the two routes (R132). -/
theorem exec_update_accepted {m : List Byte} {s : State} (hs : s.Inv)
    (hcap : s.length.toNat + m.length ≤ Config.lenMax) :
    ∃ u, exec (.update (.present m)) s = .next (u.pushResponse (okFrame [])) ∧ (ShortRoute m s u ∨ LongRoute m s u) := by
  by_cases hfit : m.length + s.remainder.toNat < Config.bufSize
  · obtain ⟨u, hu, hroute⟩ := updateShort_spec hs hcap hfit
    exact ⟨u, by rw [exec_update_short hcap hfit, hu]; rfl, .inl hroute⟩
  · have hfull := Nat.le_of_not_lt hfit
    obtain ⟨u, hu, hroute⟩ := updateLong_spec hs hcap hfull
    exact ⟨u, by rw [exec_update_long hcap hfull, hu]; rfl, .inr hroute⟩

/-- The digest FINAL answers from a state with the invariant: the short finish below 192 bytes, the long finish from
there (R134). -/
def State.streamDigest (s : State) : Word × Word :=
  if s.length.toNat < 192 then shortPath (s.buf.readBytes 0 s.length.toNat) (lane s.acc 0) (lane s.acc 1)
  else if 96 ≤ s.remainder.toNat then finishLong (mixBlock s.acc (lanes12 (s.buffered.take 96))) (s.buffered.drop 96)
  else finishLong s.acc s.buffered

/-- FINAL's finishes read cells that exist (R134). -/
theorem finalDigest_eq {s : State} (hs : s.Inv) : finalDigest s = .ok s.streamDigest := by
  obtain ⟨_, hrem, _⟩ := hs
  unfold finalDigest State.streamDigest
  by_cases hshort : s.length.toNat < 192
  · rw [if_pos hshort, if_pos hshort, shortFinish, bufRead_ok _ (by omega)]
  · have hread : 0 + s.remainder.toNat ≤ 192 := by simp only [Config.bufSize] at hrem; omega
    rw [if_neg hshort, if_neg hshort, longFinish, bufRead_ok _ hread, State.buffered]
    by_cases hblock : 96 ≤ s.remainder.toNat
    · simp only [ge_iff_le, if_pos hblock]
    · simp only [ge_iff_le, if_neg hblock]

/-- From a state with the invariant FINAL completes and writes nothing (R134, R135). -/
theorem exec_final_of_inv {s : State} (hs : s.Inv) :
    exec .final s = .next (s.pushResponse (okFrame (bytesOfDigest s.streamDigest))) := by
  rw [exec_final, finalDigest_eq hs]
  rfl

/-- From a state with the invariant no command stops (R172, R187, R188). -/
theorem exec_completes {s : State} (hs : s.Inv) (i : Instr) : ∃ t, exec i s = .next t := by
  by_cases hpure : isPure i = true
  · obtain ⟨frame, h⟩ := exec_of_isPure hpure
    exact ⟨_, h s⟩
  cases i with
  | init seed1 seed2 => exact ⟨_, exec_init seed1 seed2 s⟩
  | update range =>
    by_cases hrej : ∀ m, range = .present m → Config.lenMax < s.length.toNat + m.length
    · obtain ⟨e, h⟩ := exec_update_rejected hrej
      exact ⟨_, h s rfl⟩
    · push Not at hrej
      obtain ⟨m, rfl, hcap⟩ := hrej
      obtain ⟨u, hu, _⟩ := exec_update_accepted hs hcap
      exact ⟨_, hu⟩
  | final => exact ⟨_, exec_final_of_inv hs⟩
  | save => exact ⟨_, exec_save s⟩
  | restore im =>
    by_cases h : RestoreAccepts im
    · exact ⟨_, exec_restore_accepted h s⟩
    · exact ⟨_, exec_restore_rejected h s⟩
  | hash128 | hash64 | hash32 | short | long | mixblock | endpartial | endMix | shortmix | shortend =>
    exact absurd rfl hpure

/-! ### The stream a state stands for -/

/-- Below 192 bytes the lanes of the long route would be the seeded ones, from there they are the accumulators: either way
a state stands for a stream whose first blocks they have absorbed and whose other bytes are buffered (R26, R27). -/
theorem Absorbed.split {seed1 seed2 : Word} {msg : List Byte} {s : State} (h : Absorbed seed1 seed2 msg s) :
    ∃ k, msg.length = 96 * k + s.remainder.toNat ∧ s.buffered = msg.drop (96 * k) ∧
      workingLanes s = absorbBlocks k msg (seedInit seed1 seed2) := by
  by_cases hshort : msg.length < 192
  · obtain ⟨hseed1, hseed2, hrem, hbuf⟩ := h.buffered hshort
    have hlanes : s.length.toNat < Config.bufSize := h.length_eq ▸ hshort
    refine ⟨0, by omega, by rw [State.buffered, hrem, hbuf]; rfl, ?_⟩
    rw [workingLanes, if_pos hlanes, hseed1, hseed2, absorbBlocks]
  · obtain ⟨k, _, hlen, hacc, hbuf⟩ := h.absorbed (Nat.le_of_not_lt hshort)
    have hlanes : ¬ s.length.toNat < Config.bufSize := h.length_eq ▸ hshort
    exact ⟨k, hlen, hbuf, by rw [workingLanes, if_neg hlanes, hacc]⟩

/-- A response changes nothing of the stream. -/
theorem Absorbed.pushResponse {seed1 seed2 : Word} {msg : List Byte} {s : State} (h : Absorbed seed1 seed2 msg s)
    (frame : Frame) : Absorbed seed1 seed2 msg (s.pushResponse frame) :=
  ⟨h.length_eq, h.buffered, h.absorbed⟩

@[simp] theorem State.begun_seed1 (seed1 seed2 : Word) (s : State) : lane (s.begun seed1 seed2).acc 0 = seed1 :=
  (lane_setLane_other _ seed2 (by decide)).trans (lane_setLane_same ..)

@[simp] theorem State.begun_seed2 (seed1 seed2 : Word) (s : State) : lane (s.begun seed1 seed2).acc 1 = seed2 :=
  lane_setLane_same ..

/-- INIT begins the empty stream (R131). -/
theorem State.begun_absorbed (seed1 seed2 : Word) (s : State) : Absorbed seed1 seed2 [] (s.begun seed1 seed2) :=
  ⟨rfl, fun _ => ⟨s.begun_seed1 seed1 seed2, s.begun_seed2 seed1 seed2, rfl, rfl⟩,
    fun h => absurd h (by decide)⟩

/-- The short route appends the payload to the stream (R27, R132 step 1). -/
theorem ShortRoute.absorbed {seed1 seed2 : Word} {msg m : List Byte} {s u : State} (hu : ShortRoute m s u)
    (h : Absorbed seed1 seed2 msg s) : Absorbed seed1 seed2 (msg ++ m) u := by
  obtain ⟨hfits, hlen, hrem, hacc, hbuf, _, _⟩ := hu
  have htotal : u.length.toNat = (msg ++ m).length := by rw [hlen, h.length_eq, List.length_append]
  refine ⟨htotal, fun hshort => ?_, fun hlong => ?_⟩
  · obtain ⟨hseed1, hseed2, hrem', hmsg⟩ := h.buffered (by rw [List.length_append] at hshort; omega)
    have hcells : u.remainder.toNat = (msg ++ m).length := by rw [hrem, hrem', List.length_append]
    refine ⟨by rw [hacc, hseed1], by rw [hacc, hseed2], hcells, ?_⟩
    rw [← hcells, ← State.buffered, hbuf, State.buffered, hrem', hmsg]
  · have hcrossed : 192 ≤ msg.length := by
      by_contra hshort
      obtain ⟨_, _, hrem', _⟩ := h.buffered (by omega)
      rw [List.length_append] at hlong
      omega
    obtain ⟨k, hk, hmsg, hacc', hbuf'⟩ := h.absorbed hcrossed
    refine ⟨k, hk, by rw [List.length_append]; omega, ?_, ?_⟩
    · rw [hacc, hacc', absorbBlocks_append k msg m _ (by omega)]
    · rw [← State.buffered, hbuf, List.drop_append_of_le_length (by omega), State.buffered, hbuf']

/-- The long route appends the payload to the stream (R27, R132 steps 2 to 7). -/
theorem LongRoute.absorbed {seed1 seed2 : Word} {msg m : List Byte} {s u : State} (hu : LongRoute m s u)
    (h : Absorbed seed1 seed2 msg s) : Absorbed seed1 seed2 (msg ++ m) u := by
  obtain ⟨hfull, hlen, hrem, hacc, hbuf, _, _⟩ := hu
  obtain ⟨k, hmsg, hbuffered, hlanes⟩ := h.split
  have hpending : s.buffered ++ m = (msg ++ m).drop (96 * k) := by
    rw [List.drop_append_of_le_length (by omega), hbuffered]
  have htotal : (msg ++ m).length = 96 * k + (s.remainder.toNat + m.length) := by rw [List.length_append]; omega
  refine ⟨by rw [hlen, h.length_eq, List.length_append], fun hshort => absurd hshort (by omega), fun _ =>
    ⟨k + (s.remainder.toNat + m.length) / 96, by omega, by omega, ?_, ?_⟩⟩
  · rw [hacc, hlanes, hpending, absorbBlocks_add, absorbBlocks_append k msg m _ (by omega)]
  · rw [← State.buffered, hbuf, hpending, List.drop_drop, Nat.mul_add]

/-- Settles O43: INIT begins the empty stream, and each of UPDATE's two routes appends the payload. -/
theorem updateExtendsTheStream : Obligations.UpdateExtendsTheStream := by
  refine ⟨fun s seed1 seed2 => ⟨_, exec_init seed1 seed2 s, (s.begun_absorbed seed1 seed2).pushResponse _⟩, ?_⟩
  intro s seed1 seed2 msg m hs h hcap
  obtain ⟨u, hu, hroute⟩ := exec_update_accepted hs (h.length_eq.symm ▸ hcap)
  refine ⟨_, hu, Absorbed.pushResponse ?_ _⟩
  rcases hroute with hshort | hlong
  · exact hshort.absorbed h
  · exact hlong.absorbed h

/-! ### Stale cells -/

/-- Equal buffered bytes are equal cells below `remainder`. -/
theorem State.read_eq_of_buffered_eq {s t : State} (hrem : t.remainder = s.remainder) (h : t.buffered = s.buffered)
    {k : Nat} (hk : k < s.remainder.toNat) : t.buf.read k = s.buf.read k := by
  rw [State.buffered, State.buffered, hrem] at h
  exact Memory.read_eq_of_readBytes_eq h hk

theorem SameLive.buffered_eq {s t : State} (h : SameLive s t) : t.buffered = s.buffered := by
  rw [State.buffered, State.buffered, h.remainder_eq]
  exact Memory.readBytes_congr fun k _ hk => h.buf_eq k (by omega)

/-- The lanes the long route starts with are live (R27, R132 step 2). -/
theorem SameLive.workingLanes_eq {s t : State} (h : SameLive s t) : workingLanes t = workingLanes s := by
  unfold workingLanes
  rw [h.length_eq, h.seed1_eq, h.seed2_eq]
  by_cases hshort : s.length.toNat < Config.bufSize
  · rw [if_pos hshort, if_pos hshort]
  · rw [if_neg hshort, if_neg hshort, h.acc_eq (Nat.le_of_not_lt hshort)]

/-- FINAL reads live cells only (R27 (viii), R134): below 192 bytes the consistent counters say that the stream is in
`buf[0, remainder)`. -/
theorem SameLive.streamDigest_eq {s t : State} (h : SameLive s t) (hc : s.Consistent) :
    t.streamDigest = s.streamDigest := by
  unfold State.streamDigest
  rw [h.length_eq, h.remainder_eq, h.seed1_eq, h.seed2_eq, h.buffered_eq]
  by_cases hshort : s.length.toNat < 192
  · have hstream : t.buf.readBytes 0 s.length.toNat = s.buf.readBytes 0 s.length.toNat :=
      Memory.readBytes_congr fun k _ hk => h.buf_eq k (by rw [hc.1 hshort]; omega)
    rw [if_pos hshort, if_pos hshort, hstream]
  · rw [if_neg hshort, if_neg hshort, h.acc_eq (Nat.le_of_not_lt hshort)]

/-- Responses are no hardware state. -/
theorem SameLive.pushResponse {s t : State} (h : SameLive s t) (f g : Frame) :
    SameLive (s.pushResponse f) (t.pushResponse g) :=
  ⟨h.length_eq, h.remainder_eq, h.seed1_eq, h.seed2_eq, h.acc_eq, h.buf_eq⟩

/-- After INIT every cell it has not written is stale (R27, R131). -/
theorem State.begun_sameLive (seed1 seed2 : Word) (s t : State) :
    SameLive (s.begun seed1 seed2) (t.begun seed1 seed2) where
  length_eq := rfl
  remainder_eq := rfl
  seed1_eq := by simp
  seed2_eq := by simp
  acc_eq := fun h => absurd h (by decide : ¬ 192 ≤ 0)
  buf_eq := fun _ h => absurd h (Nat.not_lt_zero _)

/-- The short route keeps two states the same but for stale cells. A state that has crossed 192 bytes after it had crossed
them before, by the consistent counters. -/
theorem SameLive.short {m : List Byte} {s t u v : State} (h : SameLive s t) (hc : s.Consistent)
    (hu : ShortRoute m s u) (hv : ShortRoute m t v) : SameLive u v := by
  have hrem : v.remainder = u.remainder :=
    BitVec.eq_of_toNat_eq (by rw [hv.remainder_eq, hu.remainder_eq, h.remainder_eq])
  refine ⟨BitVec.eq_of_toNat_eq (by rw [hv.length_eq, hu.length_eq, h.length_eq]), hrem,
    by rw [hv.acc_eq, hu.acc_eq, h.seed1_eq], by rw [hv.acc_eq, hu.acc_eq, h.seed2_eq], fun hlong => ?_,
    fun k => State.read_eq_of_buffered_eq hrem (by rw [hv.buffered_eq, hu.buffered_eq, h.buffered_eq])⟩
  have hcrossed : 192 ≤ s.length.toNat := by
    by_contra hshort
    have hcount := hc.1 (by omega)
    have hfits := hu.fits
    rw [hu.length_eq] at hlong
    omega
  rw [hv.acc_eq, hu.acc_eq, h.acc_eq hcrossed]

/-- The long route keeps two states the same but for stale cells: it computes all it leaves from live ones. -/
theorem SameLive.long {m : List Byte} {s t u v : State} (h : SameLive s t)
    (hu : LongRoute m s u) (hv : LongRoute m t v) : SameLive u v := by
  have hrem : v.remainder = u.remainder :=
    BitVec.eq_of_toNat_eq (by rw [hv.remainder_eq, hu.remainder_eq, h.remainder_eq])
  have hacc : v.acc = u.acc := by
    rw [hv.acc_eq, hu.acc_eq, h.remainder_eq, h.buffered_eq, h.workingLanes_eq]
  have hbuf : v.buffered = u.buffered := by rw [hv.buffered_eq, hu.buffered_eq, h.remainder_eq, h.buffered_eq]
  exact ⟨BitVec.eq_of_toNat_eq (by rw [hv.length_eq, hu.length_eq, h.length_eq]), hrem, by rw [hacc], by rw [hacc],
    fun _ => hacc, fun k => State.read_eq_of_buffered_eq hrem hbuf⟩

/-- Both states complete the command with the same response, and their next states are related by `R`. -/
def AnswerAlike (R : State → State → Prop) (i : Instr) (s t : State) : Prop :=
  ∃ s' t' r, exec i s = .next s' ∧ exec i t = .next t' ∧
    s'.responses = s.responses ++ [r] ∧ t'.responses = t.responses ++ [r] ∧ R s' t'

/-- A command that writes nothing and answers two related states alike leaves them related. -/
theorem SameLive.answerAlike {i : Instr} {s t : State} (h : SameLive s t) {frame : Frame}
    (hs : exec i s = .next (s.pushResponse frame)) (ht : exec i t = .next (t.pushResponse frame)) :
    AnswerAlike SameLive i s t :=
  ⟨_, _, frame, hs, ht, rfl, rfl, h.pushResponse frame frame⟩

/-- UPDATE takes the same route from both states, or is rejected in both (R132, R133). -/
theorem SameLive.update_answerAlike {s t : State} (h : SameLive s t) (hs : s.Inv) (ht : t.Inv) (hc : s.Consistent)
    (range : ByteRange) : AnswerAlike SameLive (.update range) s t := by
  by_cases hrej : ∀ m, range = .present m → Config.lenMax < s.length.toNat + m.length
  · obtain ⟨e, hraise⟩ := exec_update_rejected hrej
    exact h.answerAlike (hraise s rfl) (hraise t h.length_eq)
  · push Not at hrej
    obtain ⟨m, rfl, hcap⟩ := hrej
    obtain ⟨u, hu, hs'⟩ := exec_update_accepted hs hcap
    obtain ⟨v, hv, ht'⟩ := exec_update_accepted ht (h.length_eq.symm ▸ hcap)
    have hnext (hlive : SameLive u v) (hru : u.responses = s.responses) (hrv : v.responses = t.responses) :
        AnswerAlike SameLive (.update (.present m)) s t :=
      ⟨_, _, okFrame [], hu, hv, by rw [State.pushResponse_responses, hru],
        by rw [State.pushResponse_responses, hrv], hlive.pushResponse _ _⟩
    have hrem := congrArg BitVec.toNat h.remainder_eq
    rcases hs' with hshort | hlong
    · rcases ht' with hshort' | hlong'
      · exact hnext (h.short hc hshort hshort') hshort.responses_eq hshort'.responses_eq
      · exact absurd hlong'.full (by rw [hrem]; exact Nat.not_le_of_lt hshort.fits)
    · rcases ht' with hshort' | hlong'
      · exact absurd hlong.full (by rw [← hrem]; exact Nat.not_le_of_lt hshort'.fits)
      · exact hnext (h.long hlong hlong') hlong.responses_eq hlong'.responses_eq

/-- Every command but SAVE and RESTORE answers two states alike that differ only in stale cells, and leaves them so
(R27 (viii)). -/
theorem SameLive.exec_answerAlike {s t : State} (h : SameLive s t) (hs : s.Inv) (ht : t.Inv) (hc : s.Consistent)
    {i : Instr} (hsave : i ≠ .save) (hrestore : isRestore i = false) : AnswerAlike SameLive i s t := by
  by_cases hpure : isPure i = true
  · obtain ⟨frame, hexec⟩ := exec_of_isPure hpure
    exact h.answerAlike (hexec s) (hexec t)
  cases i with
  | init seed1 seed2 =>
    exact ⟨_, _, okFrame [], exec_init seed1 seed2 s, exec_init seed1 seed2 t, rfl, rfl,
      (State.begun_sameLive seed1 seed2 s t).pushResponse _ _⟩
  | update range => exact h.update_answerAlike hs ht hc range
  | final => exact h.answerAlike (exec_final_of_inv hs) (h.streamDigest_eq hc ▸ exec_final_of_inv ht)
  | save => exact absurd rfl hsave
  | restore im => cases hrestore
  | hash128 | hash64 | hash32 | short | long | mixblock | endpartial | endMix | shortmix | shortend =>
    exact absurd rfl hpure

/-- An accepted RESTORE overwrites everything two states can differ in (R138). -/
theorem State.restored_sameHardware {im : List Byte} (hlen : im.length = Config.imageSize) {s t : State} (hs : s.Inv)
    (ht : t.Inv) : SameHardware (s.restored im) (t.restored im) := by
  have hcells : (im.take 192).length = 192 := by
    simp only [Config.imageSize] at hlen
    rw [List.length_take]
    omega
  exact ⟨rfl, Memory.writeBytes_all_eq ht.1 hs.1 hcells, rfl, rfl⟩

/-- Two hosts at the same hardware get the same answer, and leave the same hardware (R33). -/
theorem SameHardware.exec_answerAlike {s t : State} (h : SameHardware s t) (hs : s.Inv) (i : Instr) :
    AnswerAlike SameHardware i s t := by
  obtain ⟨hacc, hbuf, hlen, hrem⟩ := h
  have ht : t = s.withPorts t.inbox t.responses := State.eq_of_fields hacc hbuf hlen hrem rfl rfl
  rcases exec_cases i s with ⟨u, frame, _, hdone⟩ | ⟨e, hstop⟩
  · exact ⟨_, (u.withPorts t.inbox t.responses).pushResponse frame, frame, hdone s.inbox s.responses,
      (congrArg (exec i) ht).trans (hdone t.inbox t.responses), rfl, rfl, rfl, rfl, rfl, rfl⟩
  · obtain ⟨s', hs'⟩ := exec_completes hs i
    cases (hstop s.inbox s.responses).symm.trans hs'

/-- Settles O48: equal hardware stays equal; two states that differ in stale cells go on so, with consistent counters (O49)
if the command is no RESTORE, and are equal after a RESTORE that is accepted. -/
theorem staleCellsNeverShow : Obligations.StaleCellsNeverShow := by
  intro s t i hs ht hrel hwf hsave
  rcases hrel with ⟨hc, hlive⟩ | hsame
  · by_cases hrestore : isRestore i = false
    · obtain ⟨s', t', r, hs', ht', hrs, hrt, h⟩ := hlive.exec_answerAlike hs ht hc hsave hrestore
      exact ⟨s', t', r, hs', ht', hrs, hrt, .inl ⟨countersStayConsistent s s' i hs hc hrestore hs', h⟩⟩
    · cases i with
      | restore im =>
        by_cases haccept : RestoreAccepts im
        · exact ⟨_, _, okFrame [], exec_restore_accepted haccept s, exec_restore_accepted haccept t, rfl, rfl,
            .inr (State.restored_sameHardware (of_decide_eq_true hwf) hs ht)⟩
        · exact ⟨_, _, _, exec_restore_rejected haccept s, exec_restore_rejected haccept t, rfl, rfl,
            .inl ⟨hc, hlive.pushResponse _ _⟩⟩
      | _ => exact absurd rfl hrestore
  · obtain ⟨s', t', r, hs', ht', hrs, hrt, h⟩ := hsame.exec_answerAlike hs i
    exact ⟨s', t', r, hs', ht', hrs, hrt, .inr h⟩

end Sys2Proof.Machine

/-! PROOFS. 20_memory.md: how bytes become a lane (R40) and the two storage primitives of the buffer (R44). -/

namespace Sys2Proof.Machine

/-! ### Lanes -/

/-- One byte of a little-endian number, as a word of any width: the first byte is zero-extended, the others stand eight
bits above it. A byte is below 2^8, so the sum of `leNat` has no carry and is an or. -/
theorem ofNat_leNat_cons (w : Nat) (b : Byte) (bs : List Byte) :
    BitVec.ofNat w (leNat (b :: bs)) = b.zeroExtend w ||| (BitVec.ofNat w (leNat bs) <<< 8) := by
  have hor : leNat (b :: bs) = 2 ^ 8 * leNat bs ||| b.toNat := by
    rw [leNat_cons, ← Nat.two_pow_add_eq_or_of_lt b.isLt, Nat.add_comm]
  have hshift : BitVec.ofNat w (2 ^ 8 * leNat bs) = BitVec.ofNat w (leNat bs) <<< 8 := by
    apply BitVec.eq_of_toNat_eq
    rw [BitVec.toNat_shiftLeft, BitVec.toNat_ofNat, BitVec.toNat_ofNat, Nat.shiftLeft_eq, Nat.mod_mul_mod, Nat.mul_comm]
  rw [hor, BitVec.ofNat_or, hshift, BitVec.ofNat_toNat, BitVec.or_comm]

/-- `n` bytes of a string that has them, one by one. -/
theorem take_drop_eq_map_getD {b : List Byte} {off n : Nat} (h : off + n ≤ b.length) :
    (b.drop off).take n = (List.range n).map fun k => b.getD (off + k) 0#8 := by
  have hlen : n ≤ b.length - off := by omega
  refine List.ext_getElem (by simp [hlen]) fun k _ hk => ?_
  rw [List.length_map, List.length_range] at hk
  have hin : off + k < b.length := by omega
  simp [hin]

/-- R40: `ofNat_leNat_cons` for each of the eight bytes, the shifts by eight added up. -/
theorem le64_eq_formula {b : List Byte} {off : Nat} (h : off + 8 ≤ b.length) :
    le64 b off = SpecForms.le64Formula b off := by
  have hrange : List.range 8 = [0, 1, 2, 3, 4, 5, 6, 7] := rfl
  rw [le64, take_drop_eq_map_getD h, hrange]
  simp only [List.map_cons, List.map_nil, ofNat_leNat_cons, leNat_nil, BitVec.shiftLeft_or_distrib,
    ← BitVec.shiftLeft_add, Nat.reduceAdd, BitVec.zero_shiftLeft, BitVec.or_zero, BitVec.or_assoc,
    SpecForms.le64Formula]

/-- Lane `i` of twelve lanes in a byte string stands `8·i` bytes behind their offset (R40, R63). -/
theorem lane_lanesAt (b : List Byte) (off : Nat) (i : Fin 12) : lane (lanesAt b off) i = le64 b (off + 8 * i.val) := by
  fin_cases i <;> rfl

/-- Settles O13: R40's formula, the offsets of a block's lanes as those of `lanesAt` at 0, and the worked lane
evaluated. -/
theorem lanesAreLittleEndian : Obligations.LanesAreLittleEndian := by
  refine ⟨fun _ _ => le64_eq_formula, fun block i => ?_, by decide⟩
  rw [lanes12, lane_lanesAt, Nat.zero_add]

/-! ### Reads and writes of the buffer -/

/-- Settles O17: what `writeBytes` and `readBytes` do cell by cell, since an access within the 192 cells completes. -/
theorem bufferReadsAndWrites : Obligations.BufferReadsAndWrites := by
  intro m hm
  constructor
  · intro off bytes hfit
    refine ⟨m.writeBytes off bytes, bufWrite_ok m hfit, Memory.writeBytes_wf hm hfit, fun k => ?_⟩
    rw [Memory.read_writeBytes hm.1]
    split
    case isTrue hin => rw [List.getD_eq_getElem]
    case isFalse => rfl
  · intro off n hfit
    refine ⟨m.readBytes off n, bufRead_ok m hfit, Memory.readBytes_length m off n, fun k hk => ?_⟩
    rw [List.getD_eq_getElem _ _ (by simpa using hk), Memory.getElem_readBytes]

end Sys2Proof.Machine

/-! PROOFS. 30_encoding.md: the header (R61) and the rows (R68), what the decoder accepts (R67), the fields of a frame
(R63, R64), decoding and encoding as inverses, and what a step does with a frame (R60, R70). -/

namespace Sys2Proof

open Sys2Proof.Machine Sys2Proof.SpecForms

/-! ### The header -/

/-- A header word is its three fields (R61). -/
theorem header_ext {x y : BitVec 32} (hrsv : headerRsv x = headerRsv y) (hopc : headerOpc x = headerOpc y)
    (hp : headerP x = headerP y) : x = y := by
  refine BitVec.eq_of_getLsbD_eq fun i hi => ?_
  rcases Nat.lt_trichotomy i 8 with hlow | rfl | hhigh
  · have hbit := congrArg (·.getLsbD i) hopc
    simpa [headerOpc, hlow] using hbit
  · exact hp
  · have hbit := congrArg (·.getLsbD (i - 9)) hrsv
    have hfield : i - 9 < 23 := by omega
    have hplace : 9 + (i - 9) = i := by omega
    simpa [headerRsv, hfield, hplace] using hbit

/-- The decoder's search finds the one row with this opcode number (R67 step 3, R68). -/
theorem Opcode.ofCode_eq_some_iff {c : BitVec 8} {o : Opcode} : Opcode.ofCode c = some o ↔ o.code = c := by
  constructor
  · intro h
    simpa using List.find?_some h
  · rintro rfl
    cases o <;> rfl

@[simp] theorem headerRsv_headerWord (o : Opcode) (p : Bool) : headerRsv (headerWord o p) = 0 := by
  cases o <;> cases p <;> rfl

@[simp] theorem headerOpc_headerWord (o : Opcode) (p : Bool) : headerOpc (headerWord o p) = o.code := by
  cases o <;> cases p <;> rfl

@[simp] theorem headerP_headerWord (o : Opcode) (p : Bool) : headerP (headerWord o p) = p := by
  cases o <;> cases p <;> rfl

/-- The masks look at every reserved bit and at the whole opcode (R68). -/
theorem Opcode.tableMask_fields (o : Opcode) :
    headerRsv o.tableMask = BitVec.allOnes 23 ∧ headerOpc o.tableMask = BitVec.allOnes 8 := by
  cases o <;> exact ⟨rfl, rfl⟩

/-- The matches have no reserved bit set and hold the opcode (R68). -/
theorem Opcode.tableMatch_fields (o : Opcode) : headerRsv o.tableMatch = 0 ∧ headerOpc o.tableMatch = o.code := by
  cases o <;> exact ⟨rfl, rfl⟩

/-- The rows' P columns and the values of P that R62 allows are the same. -/
theorem Opcode.allowsP_iff (o : Opcode) (p : Bool) :
    o.allowsP p = true ↔ (p && headerP o.tableMask) = headerP o.tableMatch := by
  cases o <;> cases p <;> decide

/-- A row's match and mask say of a header what tests (2) to (4) of the decoder say (R67, R68). -/
theorem header_match_iff (o : Opcode) (hdr : BitVec 32) :
    hdr &&& o.tableMask = o.tableMatch ↔
      headerRsv hdr = 0 ∧ Opcode.ofCode (headerOpc hdr) = some o ∧ o.allowsP (headerP hdr) = true := by
  obtain ⟨hmaskRsv, hmaskOpc⟩ := o.tableMask_fields
  obtain ⟨hmatchRsv, hmatchOpc⟩ := o.tableMatch_fields
  have hrsv : headerRsv (hdr &&& o.tableMask) = headerRsv hdr := by
    rw [headerRsv, BitVec.extractLsb'_and, ← headerRsv, ← headerRsv, hmaskRsv, BitVec.and_allOnes]
  have hopc : headerOpc (hdr &&& o.tableMask) = headerOpc hdr := by
    rw [headerOpc, BitVec.extractLsb'_and, ← headerOpc, ← headerOpc, hmaskOpc, BitVec.and_allOnes]
  have hp : headerP (hdr &&& o.tableMask) = (headerP hdr && headerP o.tableMask) := BitVec.getLsbD_and
  rw [Opcode.ofCode_eq_some_iff, Opcode.allowsP_iff, ← hrsv, ← hopc, ← hp, ← hmatchRsv, ← hmatchOpc]
  constructor
  · intro h
    rw [h]
    exact ⟨rfl, rfl, rfl⟩
  · rintro ⟨hrsv', hopc', hp'⟩
    exact header_ext hrsv' hopc'.symm hp'

/-! ### The decoder -/

/-- Every fixed part holds the header (R63). -/
theorem Format.four_le_fixedPart (fmt : Format) : 4 ≤ fmt.fixedPart := by
  cases fmt <;> decide

/-- Bit 31 of a `LEN` field as a bound (R65). -/
theorem msb_eq_true_iff_two_pow_le (len : BitVec 32) : len.msb = true ↔ 2 ^ 31 ≤ len.toNat := by
  rw [BitVec.msb_eq_decide, decide_eq_true_iff]

/-- A test of R67 that refuses the frame when `c` holds leaves a command only if `c` fails. -/
theorem refuse_eq_ok_iff {c : Prop} [Decidable c] {e : DecodeError} {x : Except DecodeError Instr} {i : Instr} :
    (if c then .error e else x) = .ok i ↔ ¬ c ∧ x = .ok i := by
  by_cases hc : c
  · simp [hc]
  · simp [hc]

/-- A test that must hold leaves its command only if it does. -/
theorem accept_eq_ok_iff {c : Prop} [Decidable c] {e : DecodeError} {i j : Instr} :
    (if c then .ok j else .error e : Except DecodeError Instr) = .ok i ↔ c ∧ j = i := by
  by_cases hc : c
  · simp [hc]
  · simp [hc]

/-- Test (6) of R67, in the decoder's form and in the table's: a negative `LEN`, or the length that the format has. -/
theorem length_test_eq_ok_iff {o : Opcode} {f : Frame} {i j : Instr} {p : Bool} :
    (if o.format.carriesRange && p && (lenField o f).msb then .ok j
      else if f.length = o.format.fixedPart + (if o.format.carriesRange && p then (lenField o f).toNat else 0) then .ok j
      else .error .wrongLength : Except DecodeError Instr) = .ok i ↔
    (if o.format.carriesRange = true ∧ p = true then
        2 ^ 31 ≤ (lenField o f).toNat ∨ f.length = o.format.fixedPart + (lenField o f).toNat
      else f.length = o.format.fixedPart) ∧ j = i := by
  rw [← msb_eq_true_iff_two_pow_le]
  by_cases hrange : o.format.carriesRange = true ∧ p = true
  · obtain ⟨hcarries, hp⟩ := hrange
    simp only [hcarries, hp, Bool.and_self, Bool.true_and, and_self, if_true]
    by_cases hneg : (lenField o f).msb = true
    · simp [hneg]
    · simp [hneg, accept_eq_ok_iff]
  · have hnone : (o.format.carriesRange && p) = false := by simpa using hrange
    simp [hnone, hrange, accept_eq_ok_iff]

/-- The decoder accepts the frames of the table's rows and builds the row's command from them (R67, R68, R70). -/
theorem decode_eq_ok_iff {f : Frame} {i : Instr} :
    decode f = .ok i ↔ ∃ o, IsFrameOf o f ∧ build o (headerP (header f)) f = i := by
  unfold decode
  simp only [refuse_eq_ok_iff, IsFrameOf, header_match_iff, not_lt, not_not]
  cases hopc : Opcode.ofCode (headerOpc (header f)) with
  | none => simp
  | some o =>
    simp only [refuse_eq_ok_iff, length_test_eq_ok_iff, Bool.not_eq_false, not_lt, Option.some.injEq]
    constructor
    · rintro ⟨hhdr, hrsv, hp, hfixed, hlen, rfl⟩
      exact ⟨o, ⟨hhdr, ⟨hrsv, rfl, hp⟩, hfixed, hlen⟩, rfl⟩
    · rintro ⟨_, ⟨hhdr, ⟨hrsv, rfl, hp⟩, hfixed, hlen⟩, rfl⟩
      exact ⟨hhdr, hrsv, hp, hfixed, hlen, rfl⟩

/-- The command a row builds is of the row's opcode. -/
theorem opcode_build (o : Opcode) (p : Bool) (f : Frame) : (build o p f).opcode = o := by
  cases o <;> rfl

/-- Settles O3: the command that the decoder builds for the frame's row (`decode_eq_ok_iff`) has the row's opcode. -/
theorem decodeFollowsTable : Obligations.DecodeFollowsTable := by
  intro f o
  constructor
  · rintro ⟨_, hdecode, rfl⟩
    obtain ⟨o, hframe, rfl⟩ := decode_eq_ok_iff.mp hdecode
    rwa [opcode_build]
  · intro hframe
    exact ⟨_, decode_eq_ok_iff.mpr ⟨o, hframe, rfl⟩, opcode_build ..⟩

/-! ### Fields of a frame -/

@[simp] theorem bytesOfLanes_length (h : Lanes) : (bytesOfLanes h).length = 96 := by
  simp [bytesOfLanes, List.length_flatMap]

/-- A little-endian field of `n` bytes stands at the front of what its offset leaves of the frame (R64). -/
theorem drop_eq_leBytes_append {b : List Byte} {off : Nat} (n : Nat) (h : off + n ≤ b.length) :
    b.drop off = leBytes n (BitVec.ofNat (8 * n) (leNat ((b.drop off).take n))).toNat ++ b.drop (off + n) := by
  have hlen : ((b.drop off).take n).length = n := by rw [List.length_take, List.length_drop]; omega
  have hlt := leNat_lt ((b.drop off).take n)
  have hpack := leBytes_leNat ((b.drop off).take n)
  rw [hlen] at hlt hpack
  rw [BitVec.toNat_ofNat, pow_mul, Nat.mod_eq_of_lt (b := (2 ^ 8) ^ n) hlt, hpack, ← List.drop_drop, List.take_append_drop]

/-- A 64-bit field stands at the front of what its offset leaves of the frame (R64). -/
theorem drop_eq_bytesOf64_append {b : List Byte} {off : Nat} (h : off + 8 ≤ b.length) :
    b.drop off = bytesOf64 (le64 b off) ++ b.drop (off + 8) :=
  drop_eq_leBytes_append 8 h

/-- A 32-bit field stands at the front of what its offset leaves of the frame (R64). -/
theorem drop_eq_bytesOf32_append {b : List Byte} {off : Nat} (h : off + 4 ≤ b.length) :
    b.drop off = bytesOf32 (le32 b off) ++ b.drop (off + 4) :=
  drop_eq_leBytes_append 4 h

/-- `n` lanes in a row stand at the front of what their offset leaves of the frame (R63). -/
theorem drop_eq_flatMap_bytesOf64_append {b : List Byte} {off : Nat} (n : Nat) (h : off + 8 * n ≤ b.length) :
    b.drop off = ((List.range n).flatMap fun k => bytesOf64 (le64 b (off + 8 * k))) ++ b.drop (off + 8 * n) := by
  induction n with
  | zero => rfl
  | succ n ih =>
    have hnext : off + 8 * n + 8 ≤ b.length := by omega
    rw [ih (by omega), drop_eq_bytesOf64_append hnext, List.range_succ, List.flatMap_append, List.flatMap_singleton,
      List.append_assoc]
    rfl

/-- Twelve lanes stand at the front of what their offset leaves of the frame (R63). -/
theorem drop_eq_bytesOfLanes_append {b : List Byte} {off : Nat} (h : off + 96 ≤ b.length) :
    b.drop off = bytesOfLanes (lanesAt b off) ++ b.drop (off + 96) :=
  drop_eq_flatMap_bytesOf64_append 12 h

/-- Four lanes stand at the front of what their offset leaves of the frame (R63). -/
theorem drop_eq_bytesOfQuad_append {b : List Byte} {off : Nat} (h : off + 32 ≤ b.length) :
    b.drop off = bytesOfQuad (quadAt b off) ++ b.drop (off + 32) :=
  (drop_eq_flatMap_bytesOf64_append 4 h).trans (by simp [bytesOfQuad, quadAt, List.range_succ])

/-- Lane `k` of lanes in a row is read back `8·k` bytes behind their front (R63). -/
theorem le64_flatMap_bytesOf64 (l : List Word) (rest : List Byte) {k : Nat} (hk : k < l.length) :
    le64 (l.flatMap bytesOf64 ++ rest) (8 * k) = l[k] := by
  induction l generalizing k with
  | nil => exact absurd hk (Nat.not_lt_zero k)
  | cons v l ih =>
    rw [List.flatMap_cons, List.append_assoc]
    cases k with
    | zero => exact le64_bytesOf64 v _
    | succ k =>
      have hbehind : 8 * (k + 1) - (bytesOf64 v).length = 8 * k := by rw [bytesOf64_length]; omega
      rw [le64_skip _ _ _ (by rw [bytesOf64_length]; omega), hbehind, List.getElem_cons_succ]
      exact ih (Nat.lt_of_succ_lt_succ hk)

/-- Twelve lanes whose bytes start a byte string are read back at offset 0. -/
theorem lanesAt_bytesOfLanes (h : Lanes) (rest : List Byte) : lanesAt (bytesOfLanes h ++ rest) 0 = h := by
  refine lanes_ext fun i => ?_
  rw [lane_lanesAt, Nat.zero_add, bytesOfLanes, le64_flatMap_bytesOf64 _ _ (by simp)]
  rfl

/-- Reading lanes skips what stands before their offset. -/
theorem lanesAt_skip (xs ys : List Byte) (off : Nat) (h : xs.length ≤ off) :
    lanesAt (xs ++ ys) off = lanesAt ys (off - xs.length) := by
  refine lanes_ext fun i => ?_
  rw [lane_lanesAt, lane_lanesAt, le64_skip _ _ _ (by omega), Nat.sub_add_comm h]

/-- Four lanes whose bytes start a byte string are read back at offset 0. -/
theorem quadAt_bytesOfQuad (q : Quad) (rest : List Byte) : quadAt (bytesOfQuad q ++ rest) 0 = q := by
  simp [quadAt, bytesOfQuad, le64_skip, le64_bytesOf64]

/-- Reading four lanes skips what stands before their offset. -/
theorem quadAt_skip (xs ys : List Byte) (off : Nat) (h : xs.length ≤ off) :
    quadAt (xs ++ ys) off = quadAt ys (off - xs.length) := by
  have hlater (n : Nat) : off + n - xs.length = off - xs.length + n := Nat.sub_add_comm h
  have hbehind (n : Nat) : xs.length ≤ off + n := Nat.le_add_right_of_le h
  simp only [quadAt, le64_skip xs ys _ h, le64_skip xs ys _ (hbehind _), hlater]

/-! ### Byte ranges -/

/-- The range is behind the fields before it, `LEN` last in the fixed part (R63). -/
theorem lenField_append_fields {o : Opcode} {pre : List Byte} (hpre : pre.length + 4 = o.format.fixedPart)
    (r : ByteRange) : lenField o (pre ++ r.fields) = r.lenWord := by
  have hoff : o.format.fixedPart - 4 = pre.length := by omega
  rw [lenField, hoff, le32_skip _ _ _ le_rfl, Nat.sub_self, ByteRange.fields, le32_bytesOf32]

/-- What follows the fixed part is the payload (R63). -/
theorem drop_append_fields {o : Opcode} {pre : List Byte} (hpre : pre.length + 4 = o.format.fixedPart)
    (r : ByteRange) : (pre ++ r.fields).drop o.format.fixedPart = r.payload := by
  rw [ByteRange.fields, ← List.append_assoc]
  exact List.drop_left' (by simpa using hpre)

/-- A payload within the cap has its length in `LEN`, with bit 31 clear (R65). -/
theorem toNat_lenWord_present {bytes : List Byte} (h : (ByteRange.present bytes).wellFormed = true) :
    (ByteRange.present bytes).lenWord.toNat = bytes.length ∧ bytes.length < 2 ^ 31 := by
  have hcap : bytes.length ≤ Config.lenMax := of_decide_eq_true h
  exact ⟨toNat_length_of_le_cap hcap, by simp only [Config.lenMax] at hcap; omega⟩

/-- A well-formed range is read back from its fields, in each of its three forms (R62, R65, R67). -/
theorem rangeField_append_fields {o : Opcode} {pre : List Byte} (hpre : pre.length + 4 = o.format.fixedPart)
    {r : ByteRange} (hr : r.wellFormed = true) : rangeField o r.p (pre ++ r.fields) = r := by
  simp only [rangeField, lenField_append_fields hpre, drop_append_fields hpre]
  cases r with
  | absent len => rfl
  | negative len => exact if_pos hr
  | present bytes =>
    obtain ⟨hlen, hcap⟩ := toNat_lenWord_present hr
    have hmsb : ¬ (ByteRange.present bytes).lenWord.msb = true := by
      rw [msb_eq_true_iff_two_pow_le, hlen]
      omega
    exact if_neg hmsb

/-- A frame that ends in the fields of a well-formed range has a length that test (6) of R67 admits. -/
theorem length_append_fields {o : Opcode} {pre : List Byte} (hpre : pre.length + 4 = o.format.fixedPart)
    {r : ByteRange} (hr : r.wellFormed = true) :
    if r.p = true then
      2 ^ 31 ≤ (lenField o (pre ++ r.fields)).toNat ∨
        (pre ++ r.fields).length = o.format.fixedPart + (lenField o (pre ++ r.fields)).toNat
    else (pre ++ r.fields).length = o.format.fixedPart := by
  have hlength : (pre ++ r.fields).length = o.format.fixedPart + r.payload.length := by
    rw [ByteRange.fields, List.length_append, List.length_append, bytesOf32_length, ← hpre, Nat.add_assoc]
  rw [lenField_append_fields hpre, hlength]
  cases r with
  | absent len => rfl
  | negative len => exact .inl ((msb_eq_true_iff_two_pow_le len).mp hr)
  | present bytes => exact .inr (congrArg _ (toNat_lenWord_present hr).1.symm)

/-! ### Decoding an encoded command -/

/-- A command that carries a range is encoded with the range's fields behind the others (R63). -/
theorem encode_eq_append_fields {i : Instr} {r : ByteRange} (h : i.range? = some r) :
    i.p = r.p ∧ i.opcode.format.carriesRange = true ∧
      ∃ pre, encode i = pre ++ r.fields ∧ pre.length + 4 = i.opcode.format.fixedPart := by
  cases i with
  | update =>
    cases h
    exact ⟨rfl, rfl, _, rfl, by simp [Instr.opcode, Opcode.format, Format.fixedPart]⟩
  | hash128 | hash64 | hash32 | short | long =>
    cases h
    exact ⟨rfl, rfl, _, (List.append_assoc ..).symm, by simp [Instr.opcode, Opcode.format, Format.fixedPart]⟩
  | _ => cases h

/-- A well-formed command carries a well-formed range, if any (R65). -/
theorem wellFormed_range {i : Instr} {r : ByteRange} (hw : i.wellFormed = true) (h : i.range? = some r) :
    r.wellFormed = true := by
  cases i with
  | update | hash128 | hash64 | hash32 =>
    cases h
    exact hw
  | short | long =>
    cases h
    exact (Bool.and_eq_true_iff.mp hw).2
  | _ => cases h

/-- A well-formed command without a range is encoded in the fixed part of its format (R63). -/
theorem encode_length_of_no_range {i : Instr} (hw : i.wellFormed = true) (h : i.range? = none) :
    i.opcode.format.carriesRange = false ∧ (encode i).length = i.opcode.format.fixedPart := by
  cases i with
  | update | hash128 | hash64 | hash32 | short | long => cases h
  | restore block | mixblock _ block | endMix _ block =>
    have hblock := of_decide_eq_true hw
    simp only [Config.imageSize, Config.blockSize] at hblock
    exact ⟨rfl, by simp [encode, Instr.operandBytes, Instr.opcode, Opcode.format, Format.fixedPart, hblock]⟩
  | _ => exact ⟨rfl, by simp [encode, Instr.operandBytes, Instr.opcode, Opcode.format, Format.fixedPart]⟩

/-- The header of every well-formed command's encoding is one of its row (R61, R68). -/
theorem tableHeader_encode (i : Instr) : Laws.TableHeader.Statement i := by
  refine Laws.TableHeader.of_allowsP i fun hw => ?_
  cases i with
  | short | long => exact (Bool.and_eq_true_iff.mp hw).1
  | _ => rfl

/-- The encoding of a well-formed command is a frame of its row (R61 to R65, R68). -/
theorem isFrameOf_encode {i : Instr} (hw : i.wellFormed = true) : IsFrameOf i.opcode (encode i) := by
  have hfour := i.opcode.format.four_le_fixedPart
  have hheader := tableHeader_encode i hw
  cases hrange : i.range? with
  | none =>
    obtain ⟨hcarries, hlen⟩ := encode_length_of_no_range hw hrange
    exact ⟨by omega, hheader, by omega, by simpa [hcarries] using hlen⟩
  | some r =>
    obtain ⟨hp, hcarries, pre, henc, hpre⟩ := encode_eq_append_fields hrange
    have hfixed : i.opcode.format.fixedPart ≤ (encode i).length := by
      rw [henc, ByteRange.fields, List.length_append, List.length_append, bytesOf32_length]
      omega
    have hlength := length_append_fields hpre (wellFormed_range hw hrange)
    rw [← henc, ← hp] at hlength
    refine ⟨by omega, hheader, hfixed, ?_⟩
    simpa only [hcarries, Laws.TableHeader.header_encode, headerP_headerWord, true_and] using hlength

/-- The range of a well-formed command is read back from the encoding. -/
theorem rangeField_encode {i : Instr} {r : ByteRange} (hw : i.wellFormed = true) (h : i.range? = some r) :
    rangeField i.opcode i.p (encode i) = r := by
  obtain ⟨hp, _, pre, henc, hpre⟩ := encode_eq_append_fields h
  rw [henc, hp, rangeField_append_fields hpre (wellFormed_range hw h)]

/-- The operand bytes stand behind the header word (R61, R63). -/
theorem drop_encode (i : Instr) : (encode i).drop 4 = i.operandBytes :=
  List.drop_left' (bytesOf32_length _)

/-- A lane of an encoded command is read where its operand bytes hold it, four bytes behind the header. -/
theorem le64_encode (i : Instr) (k : Nat) : le64 (encode i) (4 + k) = le64 i.operandBytes k := by
  rw [le64, ← List.drop_drop, drop_encode, ← le64]

/-- Twelve lanes that start the operand bytes stand at offset 4 of the frame (R63). -/
theorem lanesAt_encode (i : Instr) : lanesAt (encode i) 4 = lanesAt i.operandBytes 0 :=
  lanesAt_skip _ _ 4 (bytesOf32_length _).le

/-- Four lanes that start the operand bytes stand at offset 4 of the frame (R63). -/
theorem quadAt_encode (i : Instr) : quadAt (encode i) 4 = quadAt i.operandBytes 0 :=
  quadAt_skip _ _ 4 (bytesOf32_length _).le

/-- Two seeds that start the operand bytes are read back (R63, formats S and H). -/
theorem seeds_encode {i : Instr} {seed1 seed2 : Word} {rest : List Byte}
    (h : i.operandBytes = bytesOf64 seed1 ++ (bytesOf64 seed2 ++ rest)) :
    le64 (encode i) 4 = seed1 ∧ le64 (encode i) 12 = seed2 := by
  constructor
  · rw [le64_encode i 0, h, le64_bytesOf64]
  · rw [le64_encode i 8, h, le64_skip _ _ _ (bytesOf64_length _).le, bytesOf64_length, Nat.sub_self, le64_bytesOf64]

/-- One seed that starts the operand bytes is read back (R63, format G). -/
theorem seed_encode {i : Instr} {seed : Word} {rest : List Byte} (h : i.operandBytes = bytesOf64 seed ++ rest) :
    le64 (encode i) 4 = seed := by
  rw [le64_encode i 0, h, le64_bytesOf64]

/-- Twelve lanes and the block behind them are read back (R63, formats T and X). -/
theorem lanes_encode {i : Instr} {h : Lanes} {block : List Byte} (hops : i.operandBytes = bytesOfLanes h ++ block) :
    lanesAt (encode i) 4 = h ∧ (encode i).drop 100 = block := by
  constructor
  · rw [lanesAt_encode, hops, lanesAt_bytesOfLanes]
  · rw [← List.drop_drop (i := 96) (j := 4), drop_encode, hops, List.drop_left' (bytesOfLanes_length h)]

/-- The four lanes are read back (R63, format Q). -/
theorem quad_encode {i : Instr} {q : Quad} (h : i.operandBytes = bytesOfQuad q) : quadAt (encode i) 4 = q := by
  rw [quadAt_encode, h, ← List.append_nil (bytesOfQuad q), quadAt_bytesOfQuad]

/-- The row of a well-formed command builds it back from its encoding, field by field (R63, R64). -/
theorem build_encode {i : Instr} (hw : i.wellFormed = true) : build i.opcode i.p (encode i) = i := by
  cases i with
  | init seed1 seed2 =>
    obtain ⟨hseed1, hseed2⟩ := seeds_encode (i := .init seed1 seed2) (congrArg _ (List.append_nil _).symm)
    exact congrArg₂ Instr.init hseed1 hseed2
  | update range => exact congrArg Instr.update (rangeField_encode hw rfl)
  | final | save => rfl
  | restore image => exact congrArg Instr.restore (drop_encode _)
  | hash128 range seed1 seed2 =>
    obtain ⟨hseed1, hseed2⟩ := seeds_encode (i := .hash128 range seed1 seed2) (List.append_assoc ..)
    exact congr (congrArg₂ Instr.hash128 (rangeField_encode hw rfl) hseed1) hseed2
  | hash64 range seed => exact congrArg₂ Instr.hash64 (rangeField_encode hw rfl) (seed_encode rfl)
  | hash32 range seed => exact congrArg₂ Instr.hash32 (rangeField_encode hw rfl) (seed_encode rfl)
  | short range seed1 seed2 =>
    obtain ⟨hseed1, hseed2⟩ := seeds_encode (i := .short range seed1 seed2) (List.append_assoc ..)
    exact congr (congrArg₂ Instr.short (rangeField_encode hw rfl) hseed1) hseed2
  | long range seed1 seed2 =>
    obtain ⟨hseed1, hseed2⟩ := seeds_encode (i := .long range seed1 seed2) (List.append_assoc ..)
    exact congr (congrArg₂ Instr.long (rangeField_encode hw rfl) hseed1) hseed2
  | mixblock h block =>
    obtain ⟨hlanes, hblock⟩ := lanes_encode (i := .mixblock h block) rfl
    exact congrArg₂ Instr.mixblock hlanes hblock
  | endpartial h =>
    obtain ⟨hlanes, _⟩ := lanes_encode (i := .endpartial h) (List.append_nil _).symm
    exact congrArg Instr.endpartial hlanes
  | endMix h block =>
    obtain ⟨hlanes, hblock⟩ := lanes_encode (i := .endMix h block) rfl
    exact congrArg₂ Instr.endMix hlanes hblock
  | shortmix q => exact congrArg Instr.shortmix (quad_encode rfl)
  | shortend q => exact congrArg Instr.shortend (quad_encode rfl)

/-- Settles O1: the encoding is a frame of the command's row (`isFrameOf_encode`), and the row builds the command back from
it (`build_encode`). -/
theorem decodeOfEncode : Obligations.DecodeOfEncode := by
  intro i hw
  refine decode_eq_ok_iff.mpr ⟨i.opcode, isFrameOf_encode hw, ?_⟩
  rw [Laws.TableHeader.header_encode, headerP_headerWord, build_encode hw]

/-! ### Encoding a decoded command -/

/-- A frame of a row without a range is its fixed part (R67 step 6). -/
theorem length_of_no_range {o : Opcode} {f : Frame} (hframe : IsFrameOf o f) (hcarries : o.format.carriesRange = false) :
    f.length = o.format.fixedPart := by
  obtain ⟨_, _, _, hlen⟩ := hframe
  simpa [hcarries] using hlen

/-- The P bit of a frame of a row is one the command allows (R62, R67 step 4). -/
theorem allowsP_of_isFrameOf {o : Opcode} {f : Frame} (hframe : IsFrameOf o f) :
    o.allowsP (headerP (header f)) = true := by
  obtain ⟨_, hheader, _, _⟩ := hframe
  obtain ⟨_, _, hp⟩ := (header_match_iff o _).mp hheader
  exact hp

/-- The three ranges a frame of a row can carry, each with what is known of its `LEN` and of the bytes behind the fixed
part (R62, R65, R67 step 6). -/
theorem rangeField_cases {o : Opcode} {f : Frame} (hframe : IsFrameOf o f) (hcarries : o.format.carriesRange = true) :
    (headerP (header f) = false ∧ rangeField o (headerP (header f)) f = .absent (lenField o f) ∧
      f.drop o.format.fixedPart = []) ∨
    (headerP (header f) = true ∧ rangeField o (headerP (header f)) f = .negative (lenField o f) ∧
      (lenField o f).msb = true) ∨
    (headerP (header f) = true ∧ rangeField o (headerP (header f)) f = .present (f.drop o.format.fixedPart) ∧
      (f.drop o.format.fixedPart).length = (lenField o f).toNat ∧ (lenField o f).toNat < 2 ^ 31) := by
  obtain ⟨_, _, hfixed, hlen⟩ := hframe
  cases hp : headerP (header f) with
  | false =>
    simp only [hp, hcarries, Bool.false_eq_true, and_false, if_false] at hlen
    exact .inl ⟨rfl, rfl, List.drop_of_length_le hlen.le⟩
  | true =>
    simp only [hp, hcarries, and_self, if_true] at hlen
    by_cases hneg : (lenField o f).msb = true
    · exact .inr (.inl ⟨rfl, if_pos hneg, hneg⟩)
    · have hpos : ¬ 2 ^ 31 ≤ (lenField o f).toNat := mt (msb_eq_true_iff_two_pow_le _).mpr hneg
      have hlen := hlen.resolve_left hpos
      exact .inr (.inr ⟨rfl, if_neg hneg, by rw [List.length_drop]; omega, Nat.lt_of_not_le hpos⟩)

/-- The range a frame of a row carries is well-formed, and it is present if P says so (R62, R65). -/
theorem rangeField_wellFormed {o : Opcode} {f : Frame} (hframe : IsFrameOf o f)
    (hcarries : o.format.carriesRange = true) :
    (rangeField o (headerP (header f)) f).wellFormed = true ∧
      (rangeField o (headerP (header f)) f).isPresent = headerP (header f) := by
  rcases rangeField_cases hframe hcarries with ⟨hp, hrange, _⟩ | ⟨hp, hrange, hneg⟩ | ⟨hp, hrange, hlen, hpos⟩
  · rw [hrange, hp]
    exact ⟨rfl, rfl⟩
  · rw [hrange, hp]
    exact ⟨hneg, rfl⟩
  · rw [hrange, hp]
    exact ⟨decide_eq_true (by simp only [Config.lenMax]; omega), rfl⟩

/-- The fields of the range a frame of a row carries are the frame from its `LEN` on, up to the bytes behind a negative
`LEN` (R63, R67 step 6). -/
theorem fields_rangeField {o : Opcode} {f : Frame} (hframe : IsFrameOf o f) (hcarries : o.format.carriesRange = true) :
    ∃ rest, (rangeField o (headerP (header f)) f).fields ++ rest = f.drop (o.format.fixedPart - 4) ∧
      ((∀ len, rangeField o (headerP (header f)) f ≠ .negative len) → rest = []) := by
  have hfour := o.format.four_le_fixedPart
  obtain ⟨_, _, hfixed, _⟩ := id hframe
  have hsplit : f.drop (o.format.fixedPart - 4) = bytesOf32 (lenField o f) ++ f.drop o.format.fixedPart := by
    have h := drop_eq_bytesOf32_append (b := f) (off := o.format.fixedPart - 4) (by omega)
    rwa [Nat.sub_add_cancel hfour] at h
  rw [hsplit]
  rcases rangeField_cases hframe hcarries with ⟨_, hrange, hend⟩ | ⟨_, hrange, _⟩ | ⟨_, hrange, hlen, _⟩
  · rw [hrange, hend]
    exact ⟨[], List.append_nil _, fun _ => rfl⟩
  · rw [hrange]
    exact ⟨f.drop o.format.fixedPart, congrArg (· ++ _) (List.append_nil _), fun h => absurd rfl (h _)⟩
  · have hword : BitVec.ofNat 32 (f.drop o.format.fixedPart).length = lenField o f := by
      rw [hlen, BitVec.ofNat_toNat, BitVec.setWidth_eq]
    refine ⟨[], ?_, fun _ => rfl⟩
    rw [hrange, List.append_nil, ByteRange.fields, ByteRange.lenWord, hword, ByteRange.payload]

/-- The command a row builds from one of its frames is well-formed (R62 to R65). -/
theorem build_wellFormed {o : Opcode} {f : Frame} (hframe : IsFrameOf o f) :
    (build o (headerP (header f)) f).wellFormed = true := by
  have hallows := allowsP_of_isFrameOf hframe
  cases o with
  | update | hash128 | hash64 | hash32 => exact (rangeField_wellFormed hframe rfl).1
  | short | long =>
    obtain ⟨hwf, hpresent⟩ := rangeField_wellFormed hframe rfl
    exact Bool.and_eq_true_iff.mpr ⟨hpresent.trans hallows, hwf⟩
  | restore | mixblock | endMix =>
    have hlen : f.length = _ := length_of_no_range hframe rfl
    exact decide_eq_true (by rw [List.length_drop, hlen]; rfl)
  | init | final | save | endpartial | shortmix | shortend => rfl

/-- The command a row builds has the frame's header (R61, R62). -/
theorem headerWord_build {o : Opcode} {f : Frame} (hframe : IsFrameOf o f) :
    headerWord (build o (headerP (header f)) f).opcode (build o (headerP (header f)) f).p = header f := by
  obtain ⟨_, hheader, _, _⟩ := id hframe
  obtain ⟨hrsv, hopc, hallows⟩ := (header_match_iff o _).mp hheader
  have hp : (build o (headerP (header f)) f).p = headerP (header f) := by
    cases o with
    | update | hash128 | hash64 | hash32 | short | long => exact (rangeField_wellFormed hframe rfl).2
    | _ => exact ((Bool.not_eq_true' _).mp hallows).symm
  rw [opcode_build, hp]
  exact header_ext ((headerRsv_headerWord ..).trans hrsv.symm)
    ((headerOpc_headerWord ..).trans (Opcode.ofCode_eq_some_iff.mp hopc)) (headerP_headerWord ..)

/-- Two seeds behind the header (R63, formats S and H). -/
theorem drop_four_eq_seeds_append {f : Frame} (h : 20 ≤ f.length) :
    f.drop 4 = bytesOf64 (le64 f 4) ++ bytesOf64 (le64 f 12) ++ f.drop 20 := by
  have hseed2 : 12 + 8 ≤ f.length := h
  rw [drop_eq_bytesOf64_append (by omega), drop_eq_bytesOf64_append hseed2, List.append_assoc]

/-- The operands a row without a range builds are the frame behind the header, field by field (R63). -/
theorem operandBytes_build_of_no_range {o : Opcode} {f : Frame} (hframe : IsFrameOf o f)
    (hcarries : o.format.carriesRange = false) (p : Bool) : (build o p f).operandBytes = f.drop 4 := by
  have hlen : f.length = _ := length_of_no_range hframe hcarries
  have hend : f.drop o.format.fixedPart = [] := List.drop_of_length_le hlen.le
  cases o with
  | update | hash128 | hash64 | hash32 | short | long => cases hcarries
  | init =>
    have hseeds := drop_four_eq_seeds_append hlen.ge
    rw [show f.drop 20 = [] from hend, List.append_nil] at hseeds
    exact hseeds.symm
  | final | save => exact hend.symm
  | restore => rfl
  | mixblock | endMix =>
    have hlanes : 4 + 96 ≤ f.length := by rw [hlen]; decide
    exact (drop_eq_bytesOfLanes_append hlanes).symm
  | endpartial =>
    have hlanes := drop_eq_bytesOfLanes_append (b := f) (off := 4) hlen.ge
    rw [show f.drop (4 + 96) = [] from hend, List.append_nil] at hlanes
    exact hlanes.symm
  | shortmix | shortend =>
    have hquad := drop_eq_bytesOfQuad_append (b := f) (off := 4) hlen.ge
    rw [show f.drop (4 + 32) = [] from hend, List.append_nil] at hquad
    exact hquad.symm

/-- The operands a row with a range builds are the fields before `LEN` and those of the range (R63). -/
theorem operandBytes_build_of_range {o : Opcode} {f : Frame} (hfixed : o.format.fixedPart ≤ f.length)
    (hcarries : o.format.carriesRange = true) (p : Bool) :
    (build o p f).range? = some (rangeField o p f) ∧
    ∃ pre, (build o p f).operandBytes = pre ++ (rangeField o p f).fields ∧
      f.drop 4 = pre ++ f.drop (o.format.fixedPart - 4) := by
  cases o with
  | update => exact ⟨rfl, [], rfl, rfl⟩
  | hash128 | short | long =>
    have hseeds : 20 ≤ f.length := le_trans (by decide) hfixed
    exact ⟨rfl, _, rfl, drop_four_eq_seeds_append hseeds⟩
  | hash64 | hash32 =>
    have hseed : 4 + 8 ≤ f.length := le_trans (by decide) hfixed
    exact ⟨rfl, _, rfl, drop_eq_bytesOf64_append hseed⟩
  | _ => cases hcarries

/-- A frame of a row starts with the encoding of the command the row builds, and ends there unless its `LEN` is
negative (R63, R64, R67). -/
theorem encode_build_append {o : Opcode} {f : Frame} (hframe : IsFrameOf o f) :
    ∃ rest, encode (build o (headerP (header f)) f) ++ rest = f ∧
      ((∀ len, (build o (headerP (header f)) f).range? ≠ some (.negative len)) → rest = []) := by
  obtain ⟨hhdr, _, hfixed, _⟩ := id hframe
  have hsplit : bytesOf32 (header f) ++ f.drop 4 = f := (drop_eq_bytesOf32_append (b := f) (off := 0) hhdr).symm
  rw [encode, headerWord_build hframe]
  cases hcarries : o.format.carriesRange with
  | false =>
    rw [operandBytes_build_of_no_range hframe hcarries]
    exact ⟨[], (List.append_nil _).trans hsplit, fun _ => rfl⟩
  | true =>
    obtain ⟨hrange, pre, hops, hfields⟩ := operandBytes_build_of_range hfixed hcarries (headerP (header f))
    obtain ⟨rest, hrest, hnil⟩ := fields_rangeField hframe hcarries
    refine ⟨rest, ?_, fun hneg => hnil fun len hlen => hneg len (hrange.trans (congrArg some hlen))⟩
    rw [hops, List.append_assoc, List.append_assoc, hrest, ← hfields, hsplit]

/-- Settles O2: a frame that decodes is a frame of a row (`decode_eq_ok_iff`), and the row reads it field by field
(`encode_build_append`). -/
theorem encodeOfDecode : Obligations.EncodeOfDecode := by
  intro f i hdecode
  obtain ⟨o, hframe, rfl⟩ := decode_eq_ok_iff.mp hdecode
  obtain ⟨rest, hrest, hnil⟩ := encode_build_append hframe
  refine ⟨build_wellFormed hframe, ⟨rest, hrest⟩, fun hneg => ?_⟩
  rw [hnil hneg, List.append_nil] at hrest
  exact hrest

/-- A command's encoding decodes to it (O1), for frames written out. -/
theorem decode_eq_of_encode_eq {f : Frame} {i : Instr} (hw : i.wellFormed = true) (h : encode i = f) :
    decode f = .ok i :=
  h ▸ decodeOfEncode i hw

/-- Settles O4: each worked command frame is the encoding of its command, which decodes to it by O1; the two response
frames are evaluated. -/
theorem workedFramesOfTheSpec : Obligations.WorkedFramesOfTheSpec :=
  ⟨decode_eq_of_encode_eq rfl (by decide), decode_eq_of_encode_eq rfl (by decide),
    decode_eq_of_encode_eq rfl (by decide), decode_eq_of_encode_eq rfl (by decide),
    decode_eq_of_encode_eq rfl (by decide), decode_eq_of_encode_eq rfl (by decide),
    decode_eq_of_encode_eq rfl (by decide), by decide, by decide⟩

/-! ### Steps and responses -/

/-- A frame of no row does not decode (R70). -/
theorem decode_eq_error_of_no_row {f : Frame} (h : ∀ o, ¬ IsFrameOf o f) : ∃ e, decode f = .error e := by
  cases hdecode : decode f with
  | error e => exact ⟨e, rfl⟩
  | ok i =>
    obtain ⟨o, hframe, _⟩ := decode_eq_ok_iff.mp hdecode
    exact absurd hframe (h o)

/-- A step that takes a frame runs it on the state with that input taken (R60). -/
theorem step_command {s : State} {f : Frame} {rest : List Input} (h : s.inbox = .command f :: rest) :
    step s = runFrame (decode f) exec (s.setInbox rest) := by
  simp only [step, takeInput, h]

/-- Settles O6: a frame of no row does not decode, and `raise` answers one response and changes nothing else. -/
theorem framesOutsideTheTableAreIllegal : Obligations.FramesOutsideTheTableAreIllegal := by
  intro s f rest hin hrow
  obtain ⟨e, hdecode⟩ := decode_eq_error_of_no_row hrow
  rw [step_command hin, hdecode]
  exact raise_eq .illegalCommand (s.setInbox rest)

/-- From a state with the invariant a command completes with one response more, the inputs left alone (R60, R172). -/
theorem exec_responds {s : State} (hs : s.Inv) (i : Instr) :
    ∃ t r, exec i s = .next t ∧ t.responses = s.responses ++ [r] ∧ t.inbox = s.inbox := by
  obtain ⟨t, ht⟩ := exec_completes hs i
  obtain ⟨hinbox, ⟨r, hr⟩, _⟩ := onlyThreeCommandsWriteState s t i ht
  exact ⟨t, r, ht, hr, hinbox⟩

/-- A frame of any bytes, run from a state with the invariant, gets one response: the command's, or IllegalCommand
(R67, R163). -/
theorem step_command_responds {s : State} (hs : s.Inv) {f : Frame} {rest : List Input}
    (hin : s.inbox = .command f :: rest) :
    ∃ t r, step s = .next t ∧ t.responses = s.responses ++ [r] ∧ t.inbox = rest := by
  rw [step_command hin]
  rcases runFrame_cases (decode f) exec (s.setInbox rest) with ⟨i, _, hrun⟩ | ⟨_, _, hrun⟩
  · rw [hrun]
    exact exec_responds (s := s.setInbox rest) hs i
  · rw [hrun]
    exact ⟨_, _, raise_eq .illegalCommand (s.setInbox rest), rfl, rfl⟩

/-- Settles O7, by the inputs a step can take: without one or with a reset it completes at once, a frame by
`step_command_responds`. -/
theorem everyFrameGetsOneResponse : Obligations.EveryFrameGetsOneResponse := by
  intro s hs
  refine ⟨?_, fun f rest hin => step_command_responds hs hin⟩
  rcases takeInput_cases exec decode s with ⟨_, hidle⟩ | ⟨f, rest, hin, _⟩ | ⟨draw, rest, _, hreset⟩
  · exact ⟨s, hidle⟩
  · obtain ⟨t, _, ht, _, _⟩ := step_command_responds hs hin
    exact ⟨t, ht⟩
  · exact ⟨_, hreset⟩

/-- Settles O32: `exec_of_isPure`, its next state written as the record update. -/
theorem pureCommandsIgnoreTheState : Obligations.PureCommandsIgnoreTheState := by
  intro i hpure
  obtain ⟨frame, hexec⟩ := exec_of_isPure hpure
  exact ⟨frame, fun s => (hexec s).trans (congrArg Host.Outcome.next (s.pushResponse_def frame))⟩

/-- Settles O31: each of the six meanings asks `payloadOf` for the payload and raises what it is refused with. -/
theorem negativeLenIsRejected : Obligations.NegativeLenIsRejected := by
  intro i len s hrange
  cases i with
  | update | hash128 | hash64 | hash32 | short | long =>
    cases hrange
    exact raise_eq .rangeOutOfBounds s
  | _ => cases hrange

end Sys2Proof

/-! PROOFS. 40_mixing_primitives.md: the five primitives compute the spec's listings and indexed forms (R91 to R95), END
depends on a sum (R93), and every primitive is a bijection on its lanes (R90). -/

namespace Sys2Proof.Machine

open Sys2Proof.SpecForms

/-! ### The listings of MixBlock and EndPartial -/

/-- Twelve lanes named one by one, as the listings name them. -/
theorem exists_lanes (h : Lanes) :
    ∃ h0 h1 h2 h3 h4 h5 h6 h7 h8 h9 h10 h11, h = #v[h0, h1, h2, h3, h4, h5, h6, h7, h8, h9, h10, h11] :=
  ⟨lane h 0, lane h 1, lane h 2, lane h 3, lane h 4, lane h 5, lane h 6, lane h 7, lane h 8, lane h 9, lane h 10,
    lane h 11, lanes_ext fun i => by fin_cases i <;> rfl⟩

/-- Reading one of twelve lanes that are written out. -/
theorem lane_mk (l : List Word) (hl : l.toArray.size = 12) (i : Fin 12) :
    lane (Vector.mk l.toArray hl) i = l[i.val]'(by simp_all) := rfl

/-- Writing one of twelve lanes that are written out leaves lanes that are written out. -/
theorem setLane_mk (l : List Word) (hl : l.toArray.size = 12) (i : Fin 12) (v : Word) :
    setLane (Vector.mk l.toArray hl) i v = Vector.mk (l.set i.val v).toArray (by simpa using hl) := by
  simp [setLane]

/-- R91: the fold's sixty statements, run in order on named lanes, are the sixty of the listing. Each statement's
indices and rotation are computed and its lanes read and written by name; no law of the words is used. -/
theorem mixBlock_eq_unrolled (h d : Lanes) : mixBlock h d = mixBlockUnrolled h d := by
  obtain ⟨h0, h1, h2, h3, h4, h5, h6, h7, h8, h9, h10, h11, rfl⟩ := exists_lanes h
  rw [mixBlock, laneOrder, mixBlockUnrolled]
  simp only [List.foldl_cons, List.foldl_nil, mixStep, mixRotations, lane_mk, setLane_mk, List.set_cons_zero,
    List.set_cons_succ, List.getElem_cons_zero, List.getElem_cons_succ, Fin.getElem_fin, Vector.getElem_mk,
    List.getElem_toArray, Fin.isValue, Fin.reduceAdd, Fin.coe_ofNat_eq_mod, Nat.reduceMod]

/-- R92: the fold's thirty-six statements are those of the listing, as in `mixBlock_eq_unrolled`. -/
theorem endPartial_eq_unrolled (h : Lanes) : endPartial h = endPartialUnrolled h := by
  obtain ⟨h0, h1, h2, h3, h4, h5, h6, h7, h8, h9, h10, h11, rfl⟩ := exists_lanes h
  rw [endPartial, laneOrder, endPartialUnrolled]
  simp only [List.foldl_cons, List.foldl_nil, endStep, endRotations, lane_mk, setLane_mk, List.set_cons_zero,
    List.set_cons_succ, List.getElem_cons_zero, List.getElem_cons_succ, Fin.getElem_fin, Vector.getElem_mk,
    List.getElem_toArray, Fin.isValue, Fin.reduceAdd, Fin.coe_ofNat_eq_mod, Nat.reduceMod]

/-- Settles O19: the meaning of MIXBLOCK is one `answer`, of the lanes `mixBlock_eq_unrolled` gives. -/
theorem mixblockRunsItsListing : Obligations.MixblockRunsItsListing := by
  intro h block s
  rw [← mixBlock_eq_unrolled]
  exact answer_eq (bytesOfLanes (mixBlock h (lanes12 block))) s

/-- Settles O20: the meaning of ENDPARTIAL is one `answer`, of the lanes `endPartial_eq_unrolled` gives. -/
theorem endpartialRunsItsListing : Obligations.EndpartialRunsItsListing := by
  intro h s
  rw [← endPartial_eq_unrolled]
  exact answer_eq (bytesOfLanes (endPartial h)) s

/-! ### End -/

@[simp] theorem lane_addLanes (h d : Lanes) (i : Fin 12) : lane (addLanes h d) i = lane h i + lane d i :=
  Vector.getElem_zipWith i.isLt

/-- The lane-wise sum as R93's statements write it. -/
theorem addLanes_eq_ofFn (h d : Lanes) : addLanes h d = Vector.ofFn fun i => lane h i + lane d i := by
  refine lanes_ext fun i => ?_
  have hofFn : lane (Vector.ofFn fun i => lane h i + lane d i) i = lane h i + lane d i := Vector.getElem_ofFn i.isLt
  rw [lane_addLanes, hofFn]

theorem addLanes_comm (h d : Lanes) : addLanes h d = addLanes d h :=
  lanes_ext fun i => by rw [lane_addLanes, lane_addLanes, BitVec.add_comm]

theorem addLanes_zero (h : Lanes) : addLanes h (Vector.replicate 12 0) = h := by
  have hzero (i : Fin 12) : lane (Vector.replicate 12 0) i = 0 := Vector.getElem_replicate i.isLt
  exact lanes_ext fun i => by rw [lane_addLanes, hzero, add_zero]

/-- Settles O21: END is one `answer`; `endFinal` is three `endPartial` over the sums, each its listing. -/
theorem endAddsThenFinishes : Obligations.EndAddsThenFinishes := by
  intro h block s
  simp only [← addLanes_eq_ofFn, ← endPartial_eq_unrolled]
  exact answer_eq (bytesOfLanes (endFinal h (lanes12 block))) s

/-- Settles O25: `endFinal` uses its operands in `addLanes` only, which commutes and has the zero lanes as its unit. -/
theorem endDependsOnSum : Obligations.EndDependsOnSum := by
  intro h d
  rw [← addLanes_eq_ofFn]
  exact ⟨by rw [endFinal, addLanes_comm, endFinal], by rw [endFinal, endFinal, addLanes_zero]⟩

/-! ### The indexed forms of ShortMix and ShortEnd -/

/-- One step of the indexed ShortMix on lane `t` (R94). -/
def indexedMixStep (t : Fin 4) (k : Nat) (v : Vector Word 4) : Vector Word 4 :=
  let u : Fin 4 := t + 1
  let w : Fin 4 := t + 2
  let v := v.set t (rol v[t] k)
  let v := v.set t (v[t] + v[u])
  v.set w (v[w] ^^^ v[t])

/-- One step of the indexed ShortEnd on the lanes `x` and `y` (R95). -/
def indexedEndStep (x y : Fin 4) (k : Nat) (v : Vector Word 4) : Vector Word 4 :=
  let v := v.set x (v[x] ^^^ v[y])
  let v := v.set y (rol v[y] k)
  v.set x (v[x] + v[y])

theorem shortMixIndexed_nil (j : Nat) (v : Vector Word 4) : shortMixIndexed j [] v = v := rfl

theorem shortMixIndexed_cons (j k : Nat) (ks : List Nat) (v : Vector Word 4) :
    shortMixIndexed j (k :: ks) v = shortMixIndexed (j + 1) ks (indexedMixStep (Fin.ofNat 4 (j + 2)) k v) := rfl

theorem shortEndIndexed_nil (j : Nat) (v : Vector Word 4) : shortEndIndexed j [] v = v := rfl

theorem shortEndIndexed_cons (j k : Nat) (ks : List Nat) (v : Vector Word 4) :
    shortEndIndexed j (k :: ks) v =
      shortEndIndexed (j + 1) ks (indexedEndStep (Fin.ofNat 4 (j + 3)) (Fin.ofNat 4 (j + 2)) k v) := rfl

/-! The eight kinds of line, as steps on their lanes. -/

section Lines
variable (k : Nat) (q : Quad)

theorem ofQuad_mixLineC : ofQuad (mixLineC k q) = indexedMixStep 2 k (ofQuad q) := rfl
theorem ofQuad_mixLineD : ofQuad (mixLineD k q) = indexedMixStep 3 k (ofQuad q) := rfl
theorem ofQuad_mixLineA : ofQuad (mixLineA k q) = indexedMixStep 0 k (ofQuad q) := rfl
theorem ofQuad_mixLineB : ofQuad (mixLineB k q) = indexedMixStep 1 k (ofQuad q) := rfl

theorem ofQuad_endStepD : ofQuad (endStepD k q) = indexedEndStep 3 2 k (ofQuad q) := rfl
theorem ofQuad_endStepA : ofQuad (endStepA k q) = indexedEndStep 0 3 k (ofQuad q) := rfl
theorem ofQuad_endStepB : ofQuad (endStepB k q) = indexedEndStep 1 0 k (ofQuad q) := rfl
theorem ofQuad_endStepC : ofQuad (endStepC k q) = indexedEndStep 2 1 k (ofQuad q) := rfl

end Lines

/-- R94: line `j` of ShortMix is step `j` of the indexed form. -/
theorem ofQuad_shortMix (q : Quad) : ofQuad (shortMix q) = shortMixIndexed 0 shortMixRotations (ofQuad q) := by
  simp only [shortMix, ofQuad_mixLineA, ofQuad_mixLineB, ofQuad_mixLineC, ofQuad_mixLineD]
  simp only [shortMixRotations, shortMixIndexed_cons, shortMixIndexed_nil, Nat.reduceAdd, Fin.reduceOfNat]

/-- R95: step `j` of ShortEnd is step `j` of the indexed form. -/
theorem ofQuad_shortEnd (q : Quad) : ofQuad (shortEnd q) = shortEndIndexed 0 shortEndRotations (ofQuad q) := by
  simp only [shortEnd, ofQuad_endStepA, ofQuad_endStepB, ofQuad_endStepC, ofQuad_endStepD]
  simp only [shortEndRotations, shortEndIndexed_cons, shortEndIndexed_nil, Nat.reduceAdd, Fin.reduceOfNat]

/-- The four lanes of a response, as the vector has them (R66). -/
theorem flatMap_ofQuad (q : Quad) : (ofQuad q).toList.flatMap bytesOf64 = bytesOfQuad q := by
  simp [ofQuad, bytesOfQuad]

/-- Settles O22: the meaning of SHORTMIX is one `answer`, of the lanes `ofQuad_shortMix` gives. -/
theorem shortmixRunsIndexedForm : Obligations.ShortmixRunsIndexedForm := by
  intro q s
  rw [← ofQuad_shortMix, flatMap_ofQuad]
  exact answer_eq (bytesOfQuad (shortMix q)) s

/-- Settles O23: the meaning of SHORTEND is one `answer`, of the lanes `ofQuad_shortEnd` gives. -/
theorem shortendRunsIndexedForm : Obligations.ShortendRunsIndexedForm := by
  intro q s
  rw [← ofQuad_shortEnd, flatMap_ofQuad]
  exact answer_eq (bytesOfQuad (shortEnd q)) s

/-! ### Bijections -/

/-- Every bit of a word is some bit of the rotated word (R10), so a rotation is injective; words are finite. -/
theorem rol_bijective {k : Nat} (hk : k < 64) : Function.Bijective fun x => rol x k := by
  refine Finite.injective_iff_bijective.mp fun x y hxy => BitVec.eq_of_getLsbD_eq fun j hj => ?_
  rw [← getLsbD_rol x hj hk, ← getLsbD_rol y hj hk, show rol x k = rol y k from hxy]

section Statements
variable {n : Nat} {i j : Fin n}

/-- A statement on lane `i` is a bijection of the lanes if, the other lanes fixed, it is one of lane `i`, and its other
operands do not look at lane `i`. -/
theorem set_bijective {op : Vector Word n → Word → Word} (hframe : ∀ v x, op (v.set i x) = op v)
    (hop : ∀ v, Function.Bijective (op v)) : Function.Bijective fun v : Vector Word n => v.set i (op v v[i]) := by
  constructor
  · intro v w (heq : v.set i (op v v[i]) = w.set i (op w w[i]))
    have hothers : w = v.set i w[i] := by
      simpa using (congrArg (fun u : Vector Word n => u.set i w[i]) heq).symm
    have hsame : op w = op v := by rw [hothers, hframe]
    have hlane : op v v[i] = op v w[i] := by
      simpa [hsame] using congrArg (fun u : Vector Word n => u[i]) heq
    rw [hothers, ← (hop v).injective hlane]
    exact (Vector.set_getElem_self i.isLt).symm
  · intro y
    obtain ⟨x, hx⟩ := (hop y).surjective y[i]
    exact ⟨y.set i x, by simp [hframe, hx]⟩

theorem set_addConst_bijective (c : Word) : Function.Bijective fun v : Vector Word n => v.set i (v[i] + c) :=
  set_bijective (op := fun _ x => x + c) (fun _ _ => rfl) fun _ => (Equiv.addRight c).bijective

theorem set_rol_bijective {k : Nat} (hk : k < 64) : Function.Bijective fun v : Vector Word n => v.set i (rol v[i] k) :=
  set_bijective (op := fun _ x => rol x k) (fun _ _ => rfl) fun _ => rol_bijective hk

theorem set_add_bijective (hij : i ≠ j) : Function.Bijective fun v : Vector Word n => v.set i (v[i] + v[j]) :=
  set_bijective (op := fun v x => x + v[j]) (fun v x => by simp [Fin.val_ne_of_ne hij])
    fun v => (Equiv.addRight v[j]).bijective

theorem set_xor_bijective (hij : i ≠ j) : Function.Bijective fun v : Vector Word n => v.set i (v[i] ^^^ v[j]) :=
  set_bijective (op := fun v x => x ^^^ v[j]) (fun v x => by simp [Fin.val_ne_of_ne hij])
    fun v => Function.Involutive.bijective fun x => by simp

end Statements

/-- A fold of bijections is a bijection. -/
theorem foldl_bijective {α β : Type} {f : α → β → α} (hf : ∀ b, Function.Bijective (f · b)) (l : List β) :
    Function.Bijective fun a => l.foldl f a := by
  induction l with
  | nil => exact Function.bijective_id
  | cons b l ih => exact ih.comp (hf b)

/-- Iteration `i` of MixBlock, statement by statement (R91). -/
theorem mixStep_bijective (d : Lanes) (i : Fin 12) : Function.Bijective fun h => mixStep d h i := by
  have hrot : ∀ i : Fin 12, mixRotations[i] < 64 := by decide
  have hxor : ∀ i : Fin 12, i + 2 ≠ i + 10 ∧ i + 11 ≠ i ∧ i + 11 ≠ i + 1 := by decide
  obtain ⟨h10, h0, h1⟩ := hxor i
  exact (set_add_bijective h1).comp <| (set_rol_bijective (hrot i)).comp <| (set_xor_bijective h0).comp <|
    (set_xor_bijective h10).comp <| set_addConst_bijective (i := i) (lane d i)

/-- Iteration `i` of EndPartial, statement by statement (R92). -/
theorem endStep_bijective (i : Fin 12) : Function.Bijective fun h => endStep h i := by
  have hrot : ∀ i : Fin 12, endRotations[i] < 64 := by decide
  have hne : ∀ i : Fin 12, i + 11 ≠ i + 1 ∧ i + 2 ≠ i + 11 := by decide
  obtain ⟨h1, h11⟩ := hne i
  exact (set_rol_bijective (hrot i)).comp <| (set_xor_bijective h11).comp <| set_add_bijective h1

theorem mixBlock_bijective (d : Lanes) : Function.Bijective fun h => mixBlock h d :=
  foldl_bijective (mixStep_bijective d) laneOrder

theorem endPartial_bijective : Function.Bijective endPartial := foldl_bijective endStep_bijective laneOrder

/-- Data lanes added are taken off again by adding their negatives. -/
theorem addLanes_bijective (d : Lanes) : Function.Bijective fun h => addLanes h d := by
  have hneg (i : Fin 12) : lane (Vector.ofFn fun i => -lane d i) i = -lane d i := Vector.getElem_ofFn i.isLt
  refine Function.bijective_iff_has_inverse.mpr ⟨fun h => addLanes h (Vector.ofFn fun i => -lane d i), ?_, ?_⟩
  · exact fun h => lanes_ext fun i => by rw [lane_addLanes, lane_addLanes, hneg, add_neg_cancel_right]
  · exact fun h => lanes_ext fun i => by rw [lane_addLanes, lane_addLanes, hneg, neg_add_cancel_right]

theorem endFinal_bijective (d : Lanes) : Function.Bijective fun h => endFinal h d := by
  have hcomp : (fun h => endFinal h d) = endPartial ∘ endPartial ∘ endPartial ∘ fun h => addLanes h d := by
    simp only [Function.comp_def, endFinal]
  rw [hcomp]
  exact endPartial_bijective.comp (endPartial_bijective.comp (endPartial_bijective.comp (addLanes_bijective d)))

theorem indexedMixStep_bijective (t : Fin 4) {k : Nat} (hk : k < 64) : Function.Bijective (indexedMixStep t k) := by
  have hne : ∀ t : Fin 4, t ≠ t + 1 ∧ t + 2 ≠ t := by decide
  obtain ⟨hu, hw⟩ := hne t
  exact (set_xor_bijective hw).comp <| (set_add_bijective hu).comp <| set_rol_bijective hk

theorem indexedEndStep_bijective {x y : Fin 4} (hxy : x ≠ y) {k : Nat} (hk : k < 64) :
    Function.Bijective (indexedEndStep x y k) :=
  (set_add_bijective hxy).comp <| (set_rol_bijective hk).comp <| set_xor_bijective hxy

theorem shortMixIndexed_bijective (j : Nat) {ks : List Nat} (hks : ∀ k ∈ ks, k < 64) :
    Function.Bijective (shortMixIndexed j ks) := by
  induction ks generalizing j with
  | nil => exact Function.bijective_id
  | cons k ks ih =>
    obtain ⟨hk, hks⟩ := List.forall_mem_cons.mp hks
    exact (ih (j + 1) hks).comp (indexedMixStep_bijective _ hk)

theorem shortEndIndexed_bijective (j : Nat) {ks : List Nat} (hks : ∀ k ∈ ks, k < 64) :
    Function.Bijective (shortEndIndexed j ks) := by
  induction ks generalizing j with
  | nil => exact Function.bijective_id
  | cons k ks ih =>
    obtain ⟨hk, hks⟩ := List.forall_mem_cons.mp hks
    have hne : Fin.ofNat 4 (j + 3) ≠ Fin.ofNat 4 (j + 2) := by simp [Fin.ext_iff]; omega
    exact (ih (j + 1) hks).comp (indexedEndStep_bijective hne hk)

theorem ofQuad_bijective : Function.Bijective ofQuad := by
  refine Function.bijective_iff_has_inverse.mpr
    ⟨fun v => { a := v[0], b := v[1], c := v[2], d := v[3] }, fun _ => rfl, fun v => Vector.ext fun i hi => ?_⟩
  interval_cases i <;> rfl

/-- R90 for ShortMix: on four lanes as a vector it is its indexed form. -/
theorem shortMix_bijective : Function.Bijective shortMix := by
  have hks : ∀ k ∈ shortMixRotations, k < 64 := by decide
  have hcomp : ofQuad ∘ shortMix = shortMixIndexed 0 shortMixRotations ∘ ofQuad := funext ofQuad_shortMix
  rw [← ofQuad_bijective.of_comp_iff', hcomp]
  exact (shortMixIndexed_bijective 0 hks).comp ofQuad_bijective

/-- R90 for ShortEnd, as `shortMix_bijective`. -/
theorem shortEnd_bijective : Function.Bijective shortEnd := by
  have hks : ∀ k ∈ shortEndRotations, k < 64 := by decide
  have hcomp : ofQuad ∘ shortEnd = shortEndIndexed 0 shortEndRotations ∘ ofQuad := funext ofQuad_shortEnd
  rw [← ofQuad_bijective.of_comp_iff', hcomp]
  exact (shortEndIndexed_bijective 0 hks).comp ofQuad_bijective

/-- Settles O24: each primitive is a chain of statements that are bijections by `set_bijective`, the two short ones in
their indexed forms. -/
theorem primitivesAreBijections : Obligations.PrimitivesAreBijections :=
  ⟨mixBlock_bijective, endPartial_bijective, endFinal_bijective, shortMix_bijective, shortEnd_bijective⟩

end Sys2Proof.Machine

/-! PROOFS. 41_oneshot_engine.md: the lanes SeedInit sets (R112), the padded final block (R114), the two paths as their
pseudocode (R111, R113), and what the five one-shot commands answer (R115 to R118). -/

namespace Sys2Proof.Machine

open Sys2Proof.SpecForms

/-! ### The lanes SeedInit sets -/

/-- Settles O15, lane by lane. -/
theorem seedInitPattern : Obligations.SeedInitPattern := by
  intro seed1 seed2 i
  fin_cases i <;> rfl

/-! ### The padded final block -/

/-- Byte `k` of a number's little-endian bytes is its digit `k` in base 256 (R40). -/
theorem getElem_leBytes (n v k : Nat) (h : k < (leBytes n v).length) :
    (leBytes n v)[k] = BitVec.ofNat 8 (v / 256 ^ k) := by
  induction n generalizing v k with
  | zero => exact absurd h (Nat.not_lt_zero k)
  | succ n ih =>
    cases k with
    | zero => simp [leBytes]
    | succ k =>
      simp only [leBytes, List.getElem_cons_succ, ih, Nat.div_div_eq_div_mul]
      rw [← pow_succ']

/-- Byte `k` of a lane is its bits from `8·k` on (R40). -/
theorem getElem_bytesOf64 (v : Word) {k : Nat} (h : k < (bytesOf64 v).length) :
    (bytesOf64 v)[k] = v.extractLsb' (8 * k) 8 := by
  have hpow : 256 ^ k = 2 ^ (8 * k) := (pow_mul 2 8 k).symm
  rw [BitVec.extractLsb', Nat.shiftRight_eq_div_pow, ← hpow]
  exact getElem_leBytes 8 v.toNat k h

/-- The bits from `8·k` on of a lane in a byte string are the string's byte `k` behind the lane's offset (R40). -/
theorem extractLsb'_le64 {b : List Byte} {off k : Nat} (hk : k < 8) (h : off + 8 ≤ b.length) :
    (le64 b off).extractLsb' (8 * k) 8 = b[off + k] := by
  have hbytes : k < (bytesOf64 (le64 b off)).length := by rwa [bytesOf64_length]
  calc (le64 b off).extractLsb' (8 * k) 8
      = (bytesOf64 (le64 b off) ++ b.drop (off + 8))[k]'(by rw [List.length_append]; omega) := by
        rw [List.getElem_append_left hbytes, getElem_bytesOf64]
    _ = (b.drop off)[k]'(by rw [List.length_drop]; omega) := by simp only [drop_eq_bytesOf64_append h]
    _ = b[off + k] := List.getElem_drop

/-- R114 byte by byte: a byte of the block is one of the tail, a zero, or the count. -/
theorem padBlock_eq_finalBlock {t : List Byte} (h : t.length ≤ 95) : padBlock t = finalBlock t := by
  refine List.ext_getElem (by simp [padBlock_length t h, finalBlock]) fun j hj _ => ?_
  rw [padBlock_length t h] at hj
  simp only [padBlock, finalBlock, List.getElem_map, List.getElem_range]
  rcases Nat.lt_trichotomy j 95 with hj95 | rfl | hj95
  · by_cases htail : j < t.length
    · simp [htail]
    · have hzero : j - t.length < 95 - t.length := by omega
      simp [htail, hj95, List.getElem_append, hzero]
  · have hcount : ¬ 95 < t.length := by omega
    simp [hcount, List.getElem_append]
  · omega

/-- Settles O16: the block byte by byte is R114's, and byte 95 is byte 7 of lane 11, which stands at 88. -/
theorem padBlockLayout : Obligations.PadBlockLayout := by
  intro t ht
  have hlen := padBlock_length t ht
  refine ⟨padBlock_eq_finalBlock ht, hlen, ?_⟩
  rw [lanes12, lane_lanesAt]
  refine (extractLsb'_le64 (k := 7) (by omega) (by rw [hlen]; decide)).trans ?_
  simp only [padBlock_eq_finalBlock ht]
  have hcount : ¬ 95 < t.length := by omega
  simp [finalBlock, hcount]

/-! ### The short path and its cursor -/

theorem le64_drop (b : List Byte) (p off : Nat) : le64 (b.drop p) off = le64 b (p + off) := by
  rw [le64, List.drop_drop, le64]

theorem le64_take {b : List Byte} {off n : Nat} (h : off + 8 ≤ n) : le64 (b.take n) off = le64 b off := by
  rw [le64, List.drop_take, List.take_take, Nat.min_eq_left (by omega), le64]

/-- One turn of the loop reads the group of 32 bytes at the cursor (R111). -/
theorem absorbGroup_at_cursor (pay : List Byte) (p : Nat) (q : Quad) :
    absorbGroup ((pay.drop p).take 32) q =
      let r := shortMix { q with c := q.c + le64 pay p, d := q.d + le64 pay (p + 8) }
      { r with a := r.a + le64 pay (p + 16), b := r.b + le64 pay (p + 24) } := by
  simp only [absorbGroup, absorbPair, le64_take, le64_drop, Nat.reduceAdd, Nat.reduceLeDiff, Nat.add_zero]

/-- The loop absorbs every whole group from the cursor on and leaves the cursor behind them, if its fuel
lasts (R111). -/
theorem shortBody_eq (pay : List Byte) {n fuel p : Nat} (q : Quad) (hn : (pay.length - p) / 32 = n)
    (hfuel : n ≤ fuel) : shortBody pay pay.length fuel p q = (p + 32 * n, absorbGroups n (pay.drop p) q) := by
  induction n generalizing fuel p q with
  | zero =>
    have hstop : ¬ pay.length - p ≥ 32 := by omega
    cases fuel with
    | zero => rfl
    | succ fuel => rw [shortBody, if_neg hstop, absorbGroups, Nat.mul_zero, Nat.add_zero]
  | succ n ih =>
    have hturn : pay.length - p ≥ 32 := by omega
    have hnext : (pay.length - (p + 32)) / 32 = n := by omega
    have hcursor : p + 32 + 32 * n = p + 32 * (n + 1) := by omega
    obtain ⟨fuel, rfl⟩ := Nat.exists_eq_add_one.mpr (Nat.lt_of_lt_of_le n.succ_pos hfuel)
    rw [shortBody, if_pos hturn, absorbGroups, List.drop_drop, absorbGroup_at_cursor, ← hcursor]
    exact ih _ hnext (Nat.le_of_succ_le_succ hfuel)

/-- One byte more is one digit more; a byte past the end counts as 0. -/
theorem leNat_take_succ (t : List Byte) (n : Nat) :
    leNat (t.take (n + 1)) = leNat (t.take n) + 256 ^ n * (t.getD n 0#8).toNat := by
  by_cases h : n < t.length
  · rw [List.take_succ_eq_append_getElem h, leNat_append, List.length_take, Nat.min_eq_left h.le,
      List.getD_eq_getElem _ _ h, leNat_cons, leNat_nil, Nat.mul_zero, Nat.add_zero]
  · rw [List.take_of_length_le (by omega), List.take_of_length_le (by omega), List.getD_eq_default _ _ (by omega)]
    rfl

/-- A byte shifted left by `8·n` is the byte times `256^n`, modulo 2^64. -/
theorem ofNat_byte_shifted (b : Byte) (n : Nat) :
    BitVec.ofNat 64 (256 ^ n * b.toNat) = b.zeroExtend 64 <<< (8 * n) := by
  apply BitVec.eq_of_toNat_eq
  rw [BitVec.toNat_shiftLeft, BitVec.toNat_setWidth, BitVec.toNat_ofNat, Nat.shiftLeft_eq, Nat.mod_mul_mod,
    Nat.mul_comm, pow_mul]
  rfl

/-- The sum of R111 over `n` bytes packs them. -/
theorem tailSum_eq_packTail (pay : List Byte) (p lo n : Nat) :
    tailSum pay p lo n = packTail ((pay.drop (p + lo)).take n) := by
  induction n with
  | zero => rfl
  | succ n ih =>
    have hbyte : (pay.drop (p + lo)).getD n 0#8 = pay.getD (p + (lo + n)) 0#8 := by
      simp [List.getD_eq_getElem?_getD, Nat.add_assoc]
    rw [packTail, leNat_take_succ, BitVec.ofNat_add, ofNat_byte_shifted, hbyte, ← packTail, ← ih]
    simp [tailSum, List.range_succ]

/-- The last lines of R111's pseudocode, with `rem` bytes left from the cursor on: the length byte, the two sums,
`SC` twice if no byte is left, ShortEnd. -/
def cursorTail (pay : List Byte) (p rem : Nat) (q : Quad) : Quad :=
  let d := q.d + (BitVec.ofNat 64 pay.length <<< 56)
  let c := q.c + tailSum pay p 0 (min rem 8)
  let d := d + tailSum pay p 8 (rem - 8)
  let c := if rem = 0 then c + Config.sc else c
  let d := if rem = 0 then d + Config.sc else d
  shortEnd { a := q.a, b := q.b, c := c, d := d }

/-- The end of the short path on the bytes from the cursor on is the pseudocode's (R111). -/
theorem shortTail_eq_cursorTail (pay : List Byte) (p : Nat) (q : Quad) :
    shortTail pay.length (pay.drop p) q = cursorTail pay p (pay.length - p) q := by
  have hlow : tailSum pay p 0 (min (pay.length - p) 8) = packTail ((pay.drop p).take 8) := by
    rw [tailSum_eq_packTail, Nat.add_zero, ← List.length_drop, Nat.min_comm, ← List.take_eq_take_min]
  have hhigh : tailSum pay p 8 (pay.length - p - 8) = packTail ((pay.drop p).drop 8) := by
    rw [tailSum_eq_packTail, List.drop_drop, List.take_of_length_le (by rw [List.length_drop]; omega)]
  rw [cursorTail, hlow, hhigh, shortTail, List.length_drop]
  split <;> rfl

/-- The pseudocode of R111 from the end of its loop on, at the cursor `p`. -/
def cursorFinish (pay : List Byte) (p : Nat) (q : Quad) : Quad :=
  if pay.length - p ≥ 16 then
    cursorTail pay (p + 16) (pay.length - p - 16)
      (shortMix { q with c := q.c + le64 pay p, d := q.d + le64 pay (p + 8) })
  else cursorTail pay p (pay.length - p) q

theorem shortPseudocode_eq (pay : List Byte) (seed1 seed2 : Word) :
    shortPseudocode pay seed1 seed2 =
      let loop := shortBody pay pay.length pay.length 0 { a := seed1, b := seed2, c := Config.sc, d := Config.sc }
      let r := cursorFinish pay loop.1 loop.2
      (r.a, r.b) := by
  simp only [shortPseudocode, cursorFinish]
  split <;> rfl

/-- The short path is its pseudocode (R111). -/
theorem shortPath_eq_pseudocode (m : List Byte) (seed1 seed2 : Word) :
    shortPath m seed1 seed2 = shortPseudocode m seed1 seed2 := by
  have hloop := shortBody_eq m (p := 0) { a := seed1, b := seed2, c := Config.sc, d := Config.sc } rfl
    (Nat.div_le_self ..)
  rw [Nat.zero_add, Nat.sub_zero, List.drop_zero] at hloop
  rw [shortPseudocode_eq, hloop]
  simp only [shortPath, cursorFinish, List.length_drop, List.drop_drop, shortTail_eq_cursorTail, absorbPair, le64_drop]
  split <;> rfl

/-! ### The long path -/

/-- Absorbing from the front is absorbing block `k` at `96·k` for each `k` in turn (R113). -/
theorem absorbBlocks_eq_foldl (n : Nat) (m : List Byte) (h : Lanes) :
    absorbBlocks n m h =
      (List.range n).foldl (fun h k => mixBlock h (lanes12 ((m.drop (96 * k)).take 96))) h := by
  induction n with
  | zero => rfl
  | succ n ih => rw [absorbBlocks_add, ih, List.range_succ, List.foldl_concat, absorbBlocks, absorbBlocks]

/-- The long path is its pseudocode: the tail behind the whole blocks is shorter than a block (R113, R114). -/
theorem longPath_eq_pseudocode (m : List Byte) (seed1 seed2 : Word) :
    longPath m seed1 seed2 = longPseudocode m seed1 seed2 := by
  have htail : (m.drop (96 * (m.length / 96))).length ≤ 95 := by rw [length_drop_blocks]; omega
  rw [longPath, finishLong, padBlock_eq_finalBlock htail, absorbBlocks_eq_foldl, longPseudocode]

/-- The dispatcher computes the digest of the two listings (R115). -/
theorem hashMessage_eq_digest (m : List Byte) (seed1 seed2 : Word) :
    hashMessage m seed1 seed2 = digest m seed1 seed2 := by
  rw [hashMessage, shortPath_eq_pseudocode, longPath_eq_pseudocode, digest]

/-! ### What the one-shot commands answer -/

/-- A command that concludes with a result answers it and changes nothing else (R14). -/
theorem respondsOnly_of_conclude {i : Instr} {s : State} {r : Except CommandError (List Byte)} {result : List Byte}
    (hexec : exec i s = conclude r s) (hr : r = .ok result) : RespondsOnly i s (okResponse result) := by
  rw [RespondsOnly, hexec, hr]
  exact answer_eq result s

theorem runPath_present (path : List Byte → Word → Word → Word × Word) {m : List Byte} (hm : m.length < 2 ^ 31)
    (seed1 seed2 : Word) : runPath path (.present m) seed1 seed2 = .ok (bytesOfDigest (path m seed1 seed2)) := by
  rw [runPath, payloadOf_present hm]

theorem hash128_absent (len : BitVec 32) (seed1 seed2 : Word) : hash128 (.absent len) seed1 seed2 = .ok (0, 0) := rfl

theorem hash128_present {m : List Byte} (hm : m.length < 2 ^ 31) (seed1 seed2 : Word) :
    hash128 (.present m) seed1 seed2 = .ok (digest m seed1 seed2) := by
  rw [hash128, payloadOf_present hm, ← hashMessage_eq_digest]

theorem hash64_absent (len : BitVec 32) (seed : Word) : hash64 (.absent len) seed = .ok 0 := rfl

theorem hash64_present {m : List Byte} (hm : m.length < 2 ^ 31) (seed : Word) :
    hash64 (.present m) seed = .ok (digest m seed seed).1 := by
  rw [hash64, hash128_present hm, Except.map]

theorem hash32_absent (len : BitVec 32) (seed : Word) : hash32 (.absent len) seed = .ok 0 := rfl

/-- Bits 31:0 of a word are its value modulo 2^32. -/
theorem extractLsb'_low (v : Word) : v.extractLsb' 0 32 = BitVec.ofNat 32 (v.toNat % 2 ^ 32) :=
  BitVec.eq_of_toNat_eq (by rw [BitVec.extractLsb'_toNat, BitVec.toNat_ofNat, Nat.shiftRight_zero, Nat.mod_mod])

/-- HASH32's result is bits 31:0 of HASH64's (R117). -/
theorem hash32_present {m : List Byte} (hm : m.length < 2 ^ 31) (seed : Word) :
    hash32 (.present m) seed = .ok (BitVec.ofNat 32 ((digest m seed seed).1.toNat % 2 ^ 32)) := by
  rw [hash32, hash64_present hm, Except.map, extractLsb'_low]

/-- Settles O26: SHORT concludes with the short path's digest, which is the pseudocode's. -/
theorem shortRunsItsPseudocode : Obligations.ShortRunsItsPseudocode := by
  intro m seed1 seed2 s hm
  rw [← shortPath_eq_pseudocode]
  exact respondsOnly_of_conclude rfl (runPath_present shortPath hm seed1 seed2)

/-- Settles O27: LONG concludes with the long path's digest, which is the pseudocode's. -/
theorem longRunsItsPseudocode : Obligations.LongRunsItsPseudocode := by
  intro m seed1 seed2 s hm
  rw [← longPath_eq_pseudocode]
  exact respondsOnly_of_conclude rfl (runPath_present longPath hm seed1 seed2)

/-- HASH128 answers the digest `hash128` gives (R115). -/
theorem hash128_responds {range : ByteRange} {seed1 seed2 : Word} {d : Word × Word}
    (h : hash128 range seed1 seed2 = .ok d) (s : State) :
    RespondsOnly (.hash128 range seed1 seed2) s (okResponse (bytesOfDigest d)) :=
  respondsOnly_of_conclude rfl (congrArg (Except.map bytesOfDigest) h)

/-- HASH64 answers the half `hash64` gives (R116). -/
theorem hash64_responds {range : ByteRange} {seed v : Word} (h : hash64 range seed = .ok v) (s : State) :
    RespondsOnly (.hash64 range seed) s (okResponse (bytesOf64 v)) :=
  respondsOnly_of_conclude rfl (congrArg (Except.map bytesOf64) h)

/-- HASH32 answers the 32 bits `hash32` gives (R117). -/
theorem hash32_responds {range : ByteRange} {seed : Word} {v : BitVec 32} (h : hash32 range seed = .ok v) (s : State) :
    RespondsOnly (.hash32 range seed) s (okResponse (bytesOf32 v)) :=
  respondsOnly_of_conclude rfl (congrArg (Except.map bytesOf32) h)

/-- Settles O28, by the three cases of the range: absent, and present on either side of 192 bytes. -/
theorem hash128Dispatches : Obligations.Hash128Dispatches := by
  refine fun seed1 seed2 s => ⟨fun len => hash128_responds (hash128_absent len seed1 seed2) s, ?_, ?_⟩
  · intro m hshort
    have hdigest : digest m seed1 seed2 = shortPseudocode m seed1 seed2 := if_pos hshort
    exact hash128_responds (hdigest ▸ hash128_present (by omega) seed1 seed2) s
  · intro m hlong hm
    have hdigest : digest m seed1 seed2 = longPseudocode m seed1 seed2 := if_neg (Nat.not_lt_of_le hlong)
    exact hash128_responds (hdigest ▸ hash128_present hm seed1 seed2) s

/-- Settles O29, by the two forms of the range. -/
theorem hash64IsFirstHalf : Obligations.Hash64IsFirstHalf :=
  fun seed s => ⟨fun len => hash64_responds (hash64_absent len seed) s,
    fun _ hm => hash64_responds (hash64_present hm seed) s⟩

/-- Settles O30, by the two forms of the range. -/
theorem hash32IsLowHalf : Obligations.Hash32IsLowHalf :=
  fun seed s => ⟨fun len => hash32_responds (hash32_absent len seed) s,
    fun _ hm => hash32_responds (hash32_present hm seed) s⟩

end Sys2Proof.Machine

/-! PROOFS. 42_streaming_hasher.md: what INIT, UPDATE, FINAL, SAVE and RESTORE write and answer (R131 to R139), the stream
laws (R135, R136, R140), and what cutting an UPDATE in two leaves (R132 against R140 (2)). -/

namespace Sys2Proof.Machine

open Sys2Proof.SpecForms

/-! ### What the commands answer -/

/-- Running a list of commands whose first completes goes on with the others (R49). -/
theorem execAll_cons {i : Instr} {s t : State} (h : exec i s = .next t) (is : List Instr) :
    execAll (i :: is) s = execAll is t := by
  simp only [execAll, h]

/-- FINAL answers the digest it computes and changes nothing else (R134, R135). -/
theorem respondsOnly_final {s : State} {d : Word × Word} (h : finalDigest s = .ok d) :
    RespondsOnly .final s (okResponse (bytesOfDigest d)) := by
  rw [RespondsOnly, exec_final, h]
  exact answer_eq (bytesOfDigest d) s

/-- Below 192 bytes FINAL runs the short path over `buf[0, length)`, whatever else the state holds (R134). -/
theorem finalDigest_short {s : State} (h : s.length.toNat < 192) :
    finalDigest s = .ok (shortPseudocode (s.buf.readBytes 0 s.length.toNat) (lane s.acc 0) (lane s.acc 1)) := by
  rw [← shortPath_eq_pseudocode, finalDigest, if_pos h, shortFinish, bufRead_ok _ (by omega)]

/-- An UPDATE past the cap is answered LengthOverflow (R133). -/
theorem exec_update_overflow {m : List Byte} {s : State} (hm : m.length < 2 ^ 31)
    (hcap : Config.lenMax < s.length.toNat + m.length) :
    exec (.update (.present m)) s = .next (s.pushResponse (errorFrame .lengthOverflow)) := by
  simp only [exec, execUpdate, payloadOf_present hm, if_pos hcap]
  rfl

/-! ### INIT -/

/-- Settles O33: `State.begun` field by field, and FINAL on no bytes. -/
theorem initStartsAStream : Obligations.InitStartsAStream := by
  intro seed1 seed2 s
  have hheader : bytesOf32 (headerWord .init false) = [0x01, 0, 0, 0] := by decide
  have hfinal : finalDigest ((s.begun seed1 seed2).pushResponse (okFrame [])) =
      .ok (shortPseudocode [] seed1 seed2) := by
    have hempty : ((s.begun seed1 seed2).pushResponse (okFrame [])).length.toNat < 192 := (by decide : 0 < 192)
    rw [finalDigest_short hempty, State.pushResponse_acc, State.begun_seed1, State.begun_seed2]
    rfl
  refine ⟨by rw [List.append_assoc, ← hheader]; rfl, _, exec_init seed1 seed2 s, rfl, rfl, s.begun_seed1 seed1 seed2,
    s.begun_seed2 seed1 seed2, fun i hi => ?_, rfl, rfl, rfl, respondsOnly_final hfinal⟩
  have h0 : (0 : Fin 12) ≠ i := fun h => absurd (h ▸ hi) (by decide)
  have h1 : (1 : Fin 12) ≠ i := fun h => absurd (h ▸ hi) (by decide)
  exact (lane_setLane_other _ seed2 h1).trans (lane_setLane_other _ seed1 h0)

/-! ### UPDATE -/

/-- The empty payload takes the short route and writes every register with what it holds (R132 step 1). -/
theorem updateShort_nil {s : State} (hs : s.Inv) : updateShort [] s = .ok s := by
  obtain ⟨_, hrem, _⟩ := hs
  have hwrite : s.remainder.toNat + ([] : List Byte).length ≤ 192 := Nat.le_of_lt hrem
  rw [updateShort, bufWrite_ok _ hwrite]
  exact congrArg Except.ok (State.eq_of_fields rfl rfl (BitVec.ofNat_toNat ..) (by simp) rfl rfl)

/-- Settles O36: the short route of no bytes. -/
theorem emptyUpdateChangesNothing : Obligations.EmptyUpdateChangesNothing := by
  intro s hs
  obtain ⟨_, hrem, hlen⟩ := id hs
  rw [RespondsOnly, exec_update_short (m := []) hlen (by simpa using hrem), updateShort_nil hs]
  exact answer_eq [] s

/-- What the short route leaves that `ShortRoute` does not say: the payload's cells, every other one as it was
(R132 step 1). -/
theorem updateShort_cells {m : List Byte} {s u : State} (hs : s.Inv) (hfit : m.length + s.remainder.toNat < 192)
    (h : updateShort m s = .ok u) :
    u.inbox = s.inbox ∧ ∀ k, u.buf.read k =
      if s.remainder.toNat ≤ k ∧ k < s.remainder.toNat + m.length then m.getD (k - s.remainder.toNat) 0
      else s.buf.read k := by
  obtain ⟨buf, hwrite, _, hcells⟩ := (bufferReadsAndWrites s.buf hs.1).1 s.remainder.toNat m (by omega)
  rw [updateShort, hwrite] at h
  cases h
  exact ⟨rfl, hcells⟩

/-- Settles O34: the short route's registers are `ShortRoute`'s, its cells those of one write. -/
theorem updateShortRoute : Obligations.UpdateShortRoute := by
  intro s m hs hcap hfit
  obtain ⟨u, hu, hroute⟩ := updateShort_spec hs hcap hfit
  obtain ⟨hinbox, hcells⟩ := updateShort_cells hs hfit hu
  refine ⟨u.pushResponse (okFrame []), by rw [exec_update_short hcap hfit, hu]; rfl, hroute.length_eq,
    hroute.remainder_eq, hroute.acc_eq, hcells, congrArg (· ++ [okFrame []]) hroute.responses_eq, hinbox⟩

/-- Step 4 on a buffer that is not empty: the filled buffer's two blocks are absorbed (R132). -/
theorem drainBuffer_of_filled {m : List Byte} {s : State} (h : Lanes) {buf : Memory} (hpos : 0 < s.remainder.toNat)
    (hfill : bufWrite s.buf s.remainder.toNat (m.take (192 - s.remainder.toNat)) = .ok buf) :
    drainBuffer m h s = .ok (buf, mixBlock (mixBlock h (lanes12 (buf.readBytes 0 96))) (lanes12 (buf.readBytes 96 96)),
      m.drop (192 - s.remainder.toNat)) := by
  simp only [drainBuffer, if_pos hpos, Config.bufSize, hfill, bufRead_ok buf (by decide : 0 + 96 ≤ 192),
    bufRead_ok buf (by decide : 96 + 96 ≤ 192)]

/-- Step 4 leaves the payload bytes it copied in the cells from `remainder` on, and every other cell as it was (R132, R141). -/
theorem drainBuffer_cells {m rest : List Byte} {s : State} {h h' : Lanes} {buf : Memory} (hs : s.Inv)
    (hfull : 192 ≤ m.length + s.remainder.toNat) (hdrain : drainBuffer m h s = .ok (buf, h', rest)) :
    buf.wf ∧ ∀ k, buf.read k =
      if 0 < s.remainder.toNat ∧ s.remainder.toNat ≤ k ∧ k < 192 then m.getD (k - s.remainder.toNat) 0
      else s.buf.read k := by
  obtain ⟨hwf, hrem, _⟩ := hs
  by_cases hpos : s.remainder.toNat > 0
  · have hcopied : s.remainder.toNat + (m.take (192 - s.remainder.toNat)).length = 192 := by
      simp only [Config.bufSize] at hrem
      rw [List.length_take]
      omega
    obtain ⟨filled, hwrite, hfilled, hcells⟩ := (bufferReadsAndWrites s.buf hwf).1 _ _ hcopied.le
    have hbuf := congrArg Prod.fst (Except.ok.inj ((drainBuffer_of_filled h hpos hwrite).symm.trans hdrain))
    subst hbuf
    refine ⟨hfilled, fun k => ?_⟩
    rw [hcells, hcopied]
    by_cases hin : s.remainder.toNat ≤ k ∧ k < 192
    · rw [if_pos hin, if_pos ⟨hpos, hin⟩, List.getD_eq_getElem?_getD, List.getD_eq_getElem?_getD,
        List.getElem?_take_of_lt (by omega)]
    · rw [if_neg hin, if_neg fun h => hin h.2]
  · rw [drainBuffer, if_neg hpos] at hdrain
    cases hdrain
    exact ⟨hwf, fun k => (if_neg fun h => hpos h.1).symm⟩

/-- What the long route leaves above its new `remainder`: the cells are those of step 4 (R132 step 6, R141). -/
theorem updateLong_stale {m : List Byte} {s u : State} (hs : s.Inv) (hfull : 192 ≤ m.length + s.remainder.toNat)
    (h : updateLong m s = .ok u) :
    u.inbox = s.inbox ∧ ∀ k, u.remainder.toNat ≤ k → u.buf.read k =
      if 0 < s.remainder.toNat ∧ s.remainder.toNat ≤ k ∧ k < 192 then m.getD (k - s.remainder.toNat) 0
      else s.buf.read k := by
  obtain ⟨buf, k, _, _, hdrain⟩ := drainBuffer_spec hs (workingLanes s) hfull
  obtain ⟨hbuf, hcells⟩ := drainBuffer_cells hs hfull hdrain
  generalize (s.buffered ++ m).drop (96 * k) = rest at hdrain
  have htail := length_drop_blocks rest
  have hrem := toNat_remainder_of_lt (n := (rest.drop (96 * (rest.length / 96))).length)
    (by simp only [Config.bufSize]; omega)
  obtain ⟨buf', hwrite, _, hcells'⟩ := (bufferReadsAndWrites buf hbuf).1 0 (rest.drop (96 * (rest.length / 96)))
    (by omega)
  simp only [updateLong, hdrain, hwrite] at h
  cases h
  refine ⟨rfl, fun k hk => ?_⟩
  have hout : ¬ (0 ≤ k ∧ k < 0 + (rest.drop (96 * (rest.length / 96))).length) := by
    have hge := hrem.symm.trans_le hk
    omega
  exact ((hcells' k).trans (if_neg hout)).trans (hcells k)

/-- A cell below `remainder` holds the buffered byte of its address. -/
theorem State.read_eq_getD_buffered (s : State) {k : Nat} (hk : k < s.remainder.toNat) :
    s.buf.read k = s.buffered.getD k 0 := by
  have hin : k < s.buffered.length := by rwa [State.buffered_length]
  rw [List.getD_eq_getElem _ _ hin]
  exact ((Memory.getElem_readBytes s.buf 0 _ k hin).trans (by rw [Nat.zero_add])).symm

/-- The long route leaves the last bytes of the payload in the buffer: what was buffered before is in the blocks it
absorbs (R132 step 6). -/
theorem LongRoute.read_tail {m : List Byte} {s u : State} (hs : s.Inv) (h : LongRoute m s u) {k : Nat}
    (hk : k < u.remainder.toNat) : u.buf.read k = m.getD (m.length - u.remainder.toNat + k) 0 := by
  obtain ⟨_, hrem, _⟩ := hs
  simp only [Config.bufSize] at hrem
  have hcount := h.remainder_eq
  have hfull := h.full
  have hpast : 96 * ((s.remainder.toNat + m.length) / 96) - s.remainder.toNat = m.length - u.remainder.toNat := by omega
  rw [State.read_eq_getD_buffered u hk, h.buffered_eq, List.drop_append, State.buffered_length,
    List.drop_of_length_le (by rw [State.buffered_length]; omega), List.nil_append, hpast,
    List.getD_eq_getElem?_getD, List.getElem?_drop, ← List.getD_eq_getElem?_getD]

/-- Settles O35: the registers are `LongRoute`'s, the cells below the new `remainder` its tail, those above it what
step 4 left. -/
theorem updateLongRoute : Obligations.UpdateLongRoute := by
  intro s m hs hcap hfull
  obtain ⟨u, hu, hroute⟩ := updateLong_spec hs hcap hfull
  obtain ⟨hinbox, hstale⟩ := updateLong_stale hs hfull hu
  refine ⟨u.pushResponse (okFrame []), by rw [exec_update_long hcap hfull, hu]; rfl, hroute.length_eq,
    hroute.remainder_eq, hroute.acc_eq, fun k => ?_, congrArg (· ++ [okFrame []]) hroute.responses_eq, hinbox⟩
  by_cases hk : k < u.remainder.toNat
  · exact (hroute.read_tail hs hk).trans (if_pos hk).symm
  · exact (hstale k (Nat.le_of_not_lt hk)).trans (if_neg hk).symm

/-- Settles O37: past the cap UPDATE is rejected and FINAL sees the same registers; within it `length` grows by the
payload, on either route. -/
theorem lengthNeverPassesTheCap : Obligations.LengthNeverPassesTheCap := by
  intro s m hs hm
  refine ⟨fun hcap => ⟨exec_update_overflow hm hcap, ⟨s.streamDigest, ?_, ?_⟩, fun seed1 seed2 => ?_⟩, fun hcap => ?_⟩
  · exact respondsOnly_final (finalDigest_eq hs)
  · exact respondsOnly_final (s := s.pushResponse _) (finalDigest_eq hs)
  · exact ⟨_, exec_init seed1 seed2 s, rfl⟩
  · obtain ⟨u, hu, hroute⟩ := exec_update_accepted hs hcap
    exact ⟨_, hu, hroute.elim ShortRoute.length_eq LongRoute.length_eq⟩

/-! ### FINAL -/

/-- From 192 bytes on FINAL runs the long finish, over a last whole block first if one is buffered (R134). -/
theorem State.streamDigest_long {s : State} (h : 192 ≤ s.length.toNat) :
    s.streamDigest = if 96 ≤ s.remainder.toNat
      then finishLong (mixBlock s.acc (lanes12 (s.buffered.take 96))) (s.buffered.drop 96)
      else finishLong s.acc s.buffered :=
  if_neg (Nat.not_lt_of_le h)

/-- The end of the long path on a tail shorter than a block, with R114's final block. -/
theorem finishLong_eq (h : Lanes) {tail : List Byte} (htail : tail.length ≤ 95) :
    finishLong h tail =
      (lane (endFinal h (lanes12 (finalBlock tail))) 0, lane (endFinal h (lanes12 (finalBlock tail))) 1) := by
  rw [finishLong, padBlock_eq_finalBlock htail]

/-- `buf[0, remainder)` with a whole block in it is that block and the bytes after it (R44). -/
theorem State.buffered_eq_block_append {s : State} (h : 96 ≤ s.remainder.toNat) :
    s.buffered = s.buf.readBytes 0 96 ++ s.buf.readBytes 96 (s.remainder.toNat - 96) := by
  rw [State.buffered, ← Nat.zero_add 96, ← Memory.readBytes_add, Nat.zero_add, Nat.add_sub_cancel' h]

/-- Settles O38, by FINAL's three finishes. -/
theorem finalFinishes : Obligations.FinalFinishes := by
  intro s hs
  obtain ⟨_, hrem, _⟩ := id hs
  simp only [Config.bufSize] at hrem
  refine ⟨fun hshort => respondsOnly_final (finalDigest_short hshort), fun hlong htail => ?_, fun hlong hblock => ?_⟩
  · refine respondsOnly_final ?_
    rw [finalDigest_eq hs, State.streamDigest_long hlong, if_neg (Nat.not_le_of_lt htail),
      finishLong_eq _ (by rw [State.buffered_length]; omega), State.buffered]
  · refine respondsOnly_final ?_
    rw [finalDigest_eq hs, State.streamDigest_long hlong, if_pos hblock, State.buffered_eq_block_append hblock,
      List.take_left' (Memory.readBytes_length ..), List.drop_left' (Memory.readBytes_length ..),
      finishLong_eq _ (by rw [Memory.readBytes_length]; omega)]

/-! ### SAVE and RESTORE -/

/-- The first 192 bytes of an image are the buffer's (R139). -/
theorem take_image {bytes : List Byte} (h : bytes.length = 192) (s : State) : (image bytes s).take 192 = bytes := by
  rw [image, List.append_assoc, List.append_assoc, List.take_left' h]

theorem length_image {bytes : List Byte} (h : bytes.length = 192) (s : State) : (image bytes s).length = 296 := by
  simp [image, h]

/-- The twelve lanes stand at 192 (R139). -/
theorem lanesAt_image {bytes : List Byte} (h : bytes.length = 192) (s : State) :
    lanesAt (image bytes s) 192 = s.acc := by
  rw [image, List.append_assoc, List.append_assoc, lanesAt_skip _ _ _ h.le, h]
  exact lanesAt_bytesOfLanes s.acc _

/-- `length` stands at 288 (R139). -/
theorem imageLength_image {bytes : List Byte} (h : bytes.length = 192) (s : State) :
    imageLength (image bytes s) = s.length := by
  have hbefore : (bytes ++ bytesOfLanes s.acc).length = 288 := by simp [h]
  rw [imageLength, image, List.append_assoc, le32_skip _ _ _ hbefore.le, hbefore]
  exact le32_bytesOf32 s.length _

/-- `remainder` stands at 292, zero-extended (R139). -/
theorem imageRemainder_image {bytes : List Byte} (h : bytes.length = 192) (s : State) :
    imageRemainder (image bytes s) = s.remainder.zeroExtend 32 := by
  have hbefore : (bytes ++ bytesOfLanes s.acc ++ bytesOf32 s.length).length = 292 := by simp [h]
  rw [imageRemainder, image, le32_skip _ _ _ hbefore.le, hbefore, ← List.append_nil (bytesOf32 _)]
  exact le32_bytesOf32 _ []

theorem toNat_imageRemainder_image {bytes : List Byte} (h : bytes.length = 192) (s : State) :
    (imageRemainder (image bytes s)).toNat = s.remainder.toNat := by
  rw [imageRemainder_image h, BitVec.toNat_setWidth, Nat.mod_eq_of_lt (by omega)]

/-- Settles O40: SAVE answers `image`, and each field stands where the lemmas above find it. -/
theorem saveShowsTheImage : Obligations.SaveShowsTheImage := by
  intro s
  have hcells : (s.buf.readBytes 0 192).length = 192 := Memory.readBytes_length ..
  refine ⟨image (s.buf.readBytes 0 192) s, exec_save s, length_image hcells s, fun k hk => ?_, fun i => ?_,
    imageLength_image hcells s, toNat_imageRemainder_image hcells s⟩
  · have hbyte : (image (s.buf.readBytes 0 192) s).getD k 0 = (s.buf.readBytes 0 192).getD k 0 := by
      rw [image, List.append_assoc, List.append_assoc, List.getD_append _ _ _ _ (by rw [hcells]; exact hk)]
    rw [hbyte, List.getD_eq_getElem _ _ (by rw [hcells]; exact hk), Memory.getElem_readBytes, Nat.zero_add]
  · rw [← lane_lanesAt, lanesAt_image hcells]

/-- RESTORE's two signed checks, on the fields as unsigned numbers (R138, R162). -/
theorem restoreAccepts_iff (im : List Byte) :
    RestoreAccepts im ↔ (imageLength im).toNat < 2 ^ 31 ∧ (imageRemainder im).toNat < 192 := by
  rw [RestoreAccepts, BitVec.toInt_eq_toNat_cond, BitVec.toInt_eq_toNat_cond]
  omega

theorem State.restored_buf (im : List Byte) (s : State) :
    (s.restored im).buf = s.buf.writeBytes 0 (im.take 192) := rfl

/-- Settles O41: `restoreAccepts_iff` for the two clauses, and the fields of `State.restored`. -/
theorem restoreChecksThenWritesAll : Obligations.RestoreChecksThenWritesAll := by
  intro s im hs him
  constructor
  · intro hbad
    refine exec_restore_rejected (fun haccept => ?_) s
    obtain ⟨hlen, hrem⟩ := (restoreAccepts_iff im).mp haccept
    exact hbad.elim (Nat.not_le_of_lt hlen) (Nat.not_le_of_lt hrem)
  · intro hlen hrem
    have haccept := (restoreAccepts_iff im).mpr ⟨hlen, hrem⟩
    have hcells : (im.take 192).length = 192 := by rw [List.length_take]; omega
    refine ⟨_, exec_restore_accepted haccept s, fun k hk => ?_, Memory.writeBytes_wf hs.1 (by omega),
      lane_lanesAt im 192, BitVec.ofNat_toNat .., toNat_remainder_of_lt haccept.remainder_lt, rfl, rfl⟩
    have hin : 0 ≤ k ∧ k < 0 + (im.take 192).length := by omega
    refine (Memory.read_writeBytes hs.1.1 0 (im.take 192) k).trans ?_
    rw [dif_pos hin, List.getD_eq_getElem _ _ (by omega)]
    simp only [Nat.sub_zero, List.getElem_take]

/-- Settles O42: an image of a state with the invariant is accepted, and each field it writes is the saved one. -/
theorem saveThenRestoreResumes : Obligations.SaveThenRestoreResumes := by
  intro s t hs ht
  obtain ⟨hbuf, hrem, hlen⟩ := id hs
  have hcells : (s.buf.readBytes 0 192).length = 192 := Memory.readBytes_length ..
  have haccept : RestoreAccepts (image (s.buf.readBytes 0 192) s) := by
    rw [restoreAccepts_iff, imageLength_image hcells, toNat_imageRemainder_image hcells]
    exact ⟨Nat.lt_succ_of_le hlen, hrem⟩
  refine ⟨_, _, exec_save s, exec_restore_accepted haccept t, lanesAt_image hcells s, ?_, ?_, ?_⟩
  · have hwrite : (t.buf.writeBytes 0 (s.buf.readBytes 0 192)).readBytes 0 192 = s.buf.readBytes 0 192 := by
      simpa only [hcells] using Memory.readBytes_writeBytes ht.1.1 0 (s.buf.readBytes 0 192)
    rw [State.pushResponse_buf, State.restored_buf, take_image hcells]
    exact Memory.eq_of_read_eq (Memory.writeBytes_wf ht.1 (by omega)) hbuf fun k hk =>
      Memory.read_eq_of_readBytes_eq hwrite hk
  · exact (BitVec.ofNat_toNat ..).trans ((BitVec.setWidth_eq _).trans (imageLength_image hcells s))
  · exact (congrArg _ (toNat_imageRemainder_image hcells s)).trans (BitVec.ofNat_toNat ..)

/-! ### The digest of the stream -/

/-- The end of the long path from lanes `h` on: every whole block of `b`, then the final block (R113, R134). -/
def finishBlocks (h : Lanes) (b : List Byte) : Word × Word :=
  finishLong (absorbBlocks (b.length / 96) b h) (b.drop (96 * (b.length / 96)))

/-- The long path is its own end from the seeded lanes (R113). -/
theorem longPath_eq_finishBlocks (m : List Byte) (seed1 seed2 : Word) :
    longPath m seed1 seed2 = finishBlocks (seedInit seed1 seed2) m := rfl

/-- It does not matter how many of the whole blocks the lanes have absorbed already. -/
theorem finishBlocks_drop {k : Nat} {b : List Byte} (hk : 96 * k ≤ b.length) (h : Lanes) :
    finishBlocks (absorbBlocks k b h) (b.drop (96 * k)) = finishBlocks h b := by
  rw [finishBlocks, finishBlocks, ← absorbBlocks_add, List.drop_drop, ← Nat.mul_add, blocks_of_drop hk]

/-- FINAL's long finish is the end of the long path over the buffered bytes, which hold one whole block or none (R134). -/
theorem State.streamDigest_eq_finishBlocks {s : State} (hs : s.Inv) (hlong : 192 ≤ s.length.toNat) :
    s.streamDigest = finishBlocks s.acc s.buffered := by
  obtain ⟨_, hrem, _⟩ := hs
  simp only [Config.bufSize] at hrem
  rw [State.streamDigest_long hlong, finishBlocks, State.buffered_length]
  by_cases hblock : 96 ≤ s.remainder.toNat
  · have hone : s.remainder.toNat / 96 = 1 := by omega
    rw [if_pos hblock, hone, absorbBlocks, absorbBlocks]
  · have hnone : s.remainder.toNat / 96 = 0 := by omega
    rw [if_neg hblock, hnone, absorbBlocks, Nat.mul_zero, List.drop_zero]

/-- FINAL's digest of the stream a state stands for is the one-shot digest (R130, R140 (3) and (4)). -/
theorem Absorbed.streamDigest_eq {seed1 seed2 : Word} {msg : List Byte} {s : State} (hs : s.Inv)
    (h : Absorbed seed1 seed2 msg s) : s.streamDigest = digest msg seed1 seed2 := by
  rw [← hashMessage_eq_digest]
  by_cases hshort : msg.length < 192
  · obtain ⟨hseed1, hseed2, _, hbuf⟩ := h.buffered hshort
    rw [State.streamDigest, h.length_eq, if_pos hshort, hseed1, hseed2, hbuf, hashMessage, if_pos hshort]
  · obtain ⟨k, _, hlen, hacc, hbuf⟩ := h.absorbed (Nat.le_of_not_lt hshort)
    rw [State.streamDigest_eq_finishBlocks hs (h.length_eq.symm ▸ Nat.le_of_not_lt hshort), State.buffered, hacc, hbuf,
      finishBlocks_drop (by omega), hashMessage, if_neg hshort, longPath_eq_finishBlocks]

/-- Settles O44: FINAL answers `State.streamDigest`, the digest of the stream. -/
theorem finalDigestsTheStream : Obligations.FinalDigestsTheStream := by
  intro s seed1 seed2 msg hs h
  rw [← h.streamDigest_eq hs]
  exact respondsOnly_final (finalDigest_eq hs)

/-- INIT begins the empty stream, keeps the invariant and answers OK (R131). -/
theorem exec_init_absorbed {s : State} (hs : s.Inv) (seed1 seed2 : Word) :
    ∃ t, exec (.init seed1 seed2) s = .next t ∧ t.Inv ∧ Absorbed seed1 seed2 [] t ∧
      t.responses = s.responses ++ [[0, 0, 0, 0]] :=
  ⟨_, exec_init seed1 seed2 s, exec_inv hs (exec_init seed1 seed2 s), (s.begun_absorbed seed1 seed2).pushResponse _, rfl⟩

/-- An accepted UPDATE appends its payload to the stream, keeps the invariant and answers OK (R27, R132). -/
theorem exec_update_absorbed {seed1 seed2 : Word} {msg m : List Byte} {s : State} (hs : s.Inv)
    (h : Absorbed seed1 seed2 msg s) (hcap : msg.length + m.length ≤ 2147483647) :
    ∃ t, exec (.update (.present m)) s = .next t ∧ t.Inv ∧ Absorbed seed1 seed2 (msg ++ m) t ∧
      t.responses = s.responses ++ [[0, 0, 0, 0]] := by
  obtain ⟨u, hu, hroute⟩ := exec_update_accepted hs (h.length_eq.symm ▸ hcap)
  refine ⟨_, hu, exec_inv hs hu, ?_, congrArg (· ++ [okFrame []]) ?_⟩
  · exact (hroute.elim (·.absorbed h) (·.absorbed h)).pushResponse _
  · exact hroute.elim ShortRoute.responses_eq LongRoute.responses_eq

/-- A list of accepted UPDATEs appends their payloads in order, each answering OK (R49, R136). -/
theorem execAll_updates {seed1 seed2 : Word} (chunks : List (List Byte)) {msg : List Byte} {s : State} (hs : s.Inv)
    (h : Absorbed seed1 seed2 msg s) (hcap : msg.length + chunks.flatten.length ≤ 2147483647) (rest : List Instr) :
    ∃ t, execAll (chunks.map (fun c => .update (.present c)) ++ rest) s = execAll rest t ∧ t.Inv ∧
      Absorbed seed1 seed2 (msg ++ chunks.flatten) t ∧
      t.responses = s.responses ++ List.replicate chunks.length [0, 0, 0, 0] := by
  induction chunks generalizing msg s with
  | nil => exact ⟨s, rfl, hs, by rwa [List.flatten_nil, List.append_nil], (List.append_nil _).symm⟩
  | cons c chunks ih =>
    rw [List.flatten_cons, List.length_append, ← Nat.add_assoc] at hcap
    obtain ⟨u, hu, hinv, hmsg, hresp⟩ := exec_update_absorbed hs h (m := c) (by omega)
    obtain ⟨t, hrun, htinv, htmsg, htresp⟩ := ih hinv hmsg (by rwa [List.length_append])
    refine ⟨t, by rw [List.map_cons, List.cons_append, execAll_cons hu, hrun], htinv, ?_, ?_⟩
    · rwa [List.flatten_cons, ← List.append_assoc]
    · rw [htresp, hresp, List.length_cons, List.replicate_succ, List.append_assoc, List.singleton_append]

/-- Settles O45: the UPDATEs append the chunks to the empty stream, and both FINAL and HASH128 answer its digest. -/
theorem streamEqualsOneShot : Obligations.StreamEqualsOneShot := by
  intro s seed1 seed2 chunks hs hcap
  obtain ⟨b, hb, hbinv, hbmsg, hbresp⟩ := exec_init_absorbed hs seed1 seed2
  obtain ⟨t, hrun, htinv, htmsg, htresp⟩ := execAll_updates chunks hbinv hbmsg
    (by rwa [List.length_nil, Nat.zero_add]) [.final]
  have hdigest := finalDigestsTheStream t seed1 seed2 chunks.flatten htinv htmsg
  refine ⟨t.pushResponse (okResponse (bytesOfDigest (digest chunks.flatten seed1 seed2))), _, ?_, ?_,
    hash128_responds (hash128_present (by omega) seed1 seed2) s⟩
  · rw [List.cons_append, execAll_cons hb, hrun]
    exact execAll_cons hdigest []
  · simp only [State.pushResponse_responses, htresp, hbresp, List.replicate_succ, List.append_assoc, List.cons_append, List.nil_append]

/-- Settles O39: FINAL writes no register its digest is read from, so the stream goes on as if it had not run. -/
theorem finalIsIdempotentAndNonDestructive : Obligations.FinalIsIdempotentAndNonDestructive := by
  refine ⟨fun s hs => ⟨s.streamDigest, respondsOnly_final (finalDigest_eq hs),
    respondsOnly_final (s := s.pushResponse _) (finalDigest_eq hs)⟩, ?_⟩
  intro s seed1 seed2 x y hs hcap
  obtain ⟨b, hb, hbinv, hbmsg, hbresp⟩ := exec_init_absorbed hs seed1 seed2
  obtain ⟨u, hu, huinv, humsg, huresp⟩ := exec_update_absorbed hbinv hbmsg (m := x)
    (by rw [List.length_nil]; omega)
  have hfirst := finalDigestsTheStream u seed1 seed2 x huinv humsg
  obtain ⟨v, hv, hvinv, hvmsg, hvresp⟩ := exec_update_absorbed (s := u.pushResponse _) huinv
    (humsg.pushResponse (okResponse (bytesOfDigest (digest x seed1 seed2)))) (m := y) hcap
  have hsecond := finalDigestsTheStream v seed1 seed2 (x ++ y) hvinv hvmsg
  refine ⟨v.pushResponse (okResponse (bytesOfDigest (digest (x ++ y) seed1 seed2))), digest x seed1 seed2, ?_, ?_⟩
  · rw [execAll_cons hb, execAll_cons hu, execAll_cons hfirst]
    exact (execAll_cons hv [.final]).trans (execAll_cons hsecond [])
  · simp only [State.pushResponse_responses, hvresp, huresp, hbresp, List.append_assoc, List.cons_append, List.nil_append]

/-! ### One UPDATE and its two parts -/

/-- `u` is `s` with the payload `m` appended, `k` more blocks absorbed: the bytes absorbed and those still buffered are
together those of `s` and then `m` (R27, R132). -/
structure Appends (m : List Byte) (s u : State) (k : Nat) : Prop where
  length_eq : u.length.toNat = s.length.toNat + m.length
  remainder_eq : 96 * k + u.remainder.toNat = s.remainder.toNat + m.length
  buffered_eq : u.buffered = (s.buffered ++ m).drop (96 * k)
  lanes_eq : workingLanes u = absorbBlocks k (s.buffered ++ m) (workingLanes s)
  acc_eq : u.length.toNat < 192 → u.acc = s.acc

/-- How many blocks an UPDATE of `m` absorbs: none on the short route, every whole one on the long route (R132). -/
def State.blocksTaken (m : List Byte) (s : State) : Nat :=
  if m.length + s.remainder.toNat < 192 then 0 else (s.remainder.toNat + m.length) / 96

theorem State.blocksTaken_cases (m : List Byte) (s : State) :
    (m.length + s.remainder.toNat < 192 ∧ s.blocksTaken m = 0) ∨
      (192 ≤ m.length + s.remainder.toNat ∧ s.blocksTaken m = (s.remainder.toNat + m.length) / 96) := by
  by_cases hfit : m.length + s.remainder.toNat < 192
  · exact .inl ⟨hfit, if_pos hfit⟩
  · exact .inr ⟨Nat.le_of_not_lt hfit, if_neg hfit⟩

/-- From 192 bytes on the long route starts with the accumulators (R132 step 2). -/
theorem workingLanes_long {s : State} (h : 192 ≤ s.length.toNat) : workingLanes s = s.acc :=
  if_neg (Nat.not_lt_of_le h)

/-- With consistent counters the short route does not cross 192 bytes, so it keeps the working lanes. -/
theorem ShortRoute.appends {m : List Byte} {s u : State} (h : ShortRoute m s u) (hc : s.Consistent) :
    Appends m s u 0 := by
  obtain ⟨hfits, hlen, hrem, hacc, hbuf, _, _⟩ := h
  refine ⟨hlen, by omega, hbuf, ?_, fun _ => hacc⟩
  rw [absorbBlocks]
  by_cases hshort : s.length.toNat < 192
  · have hstays : u.length.toNat < 192 := by rw [hlen, ← hc.1 hshort]; omega
    rw [workingLanes, workingLanes, if_pos hstays, if_pos hshort, hacc]
  · rw [workingLanes_long (by omega), workingLanes_long (by omega), hacc]

/-- The long route ends past 192 bytes: with consistent counters `remainder` is at most `length`. -/
theorem LongRoute.appends {m : List Byte} {s u : State} (h : LongRoute m s u) (hc : s.Consistent) :
    Appends m s u ((s.remainder.toNat + m.length) / 96) := by
  obtain ⟨hfull, hlen, hrem, hacc, hbuf, _, _⟩ := h
  have hlong : 192 ≤ u.length.toNat := by
    unfold State.Consistent at hc
    omega
  exact ⟨hlen, by omega, hbuf, by rw [workingLanes_long hlong, hacc], fun hshort => absurd hshort (by omega)⟩

/-- From consistent counters an UPDATE within the cap appends its payload and keeps the counters consistent (R27, R132). -/
theorem exec_update_appends {m : List Byte} {s : State} (hs : s.Inv) (hc : s.Consistent)
    (hcap : s.length.toNat + m.length ≤ 2147483647) :
    ∃ u, exec (.update (.present m)) s = .next u ∧ u.Inv ∧ u.Consistent ∧ Appends m s u (s.blocksTaken m) := by
  obtain ⟨u, hu, hroute⟩ := exec_update_accepted hs hcap
  have happends : Appends m s u (s.blocksTaken m) := by
    rcases hroute with hshort | hlong
    · rw [State.blocksTaken, if_pos hshort.fits]
      exact hshort.appends hc
    · rw [State.blocksTaken, if_neg (Nat.not_lt_of_le hlong.full)]
      exact hlong.appends hc
  obtain ⟨hlen, hrem, hbuf, hlanes, hacc⟩ := happends
  exact ⟨_, hu, exec_inv hs hu, countersStayConsistent s _ _ hs hc rfl hu, hlen, hrem, hbuf, hlanes, hacc⟩

/-- Appending `x` and then `y` is appending `x ++ y`. -/
theorem Appends.trans {x y : List Byte} {s u v : State} {j k : Nat} (hx : Appends x s u j) (hy : Appends y u v k) :
    Appends (x ++ y) s v (j + k) := by
  obtain ⟨hxlen, hxrem, hxbuf, hxlanes, hxacc⟩ := hx
  obtain ⟨hylen, hyrem, hybuf, hylanes, hyacc⟩ := hy
  have hblocks : 96 * j ≤ (s.buffered ++ x).length := by rw [List.length_append, State.buffered_length]; omega
  have hpending : u.buffered ++ y = (s.buffered ++ (x ++ y)).drop (96 * j) := by
    rw [hxbuf, ← List.drop_append_of_le_length hblocks, List.append_assoc]
  refine ⟨by rw [hylen, hxlen, List.length_append, Nat.add_assoc], by rw [List.length_append]; omega, ?_, ?_,
    fun hshort => by rw [hyacc hshort, hxacc (by omega)]⟩
  · rw [hybuf, hpending, List.drop_drop, Nat.mul_add]
  · rw [hylanes, hpending, hxlanes, absorbBlocks_add, ← List.append_assoc, absorbBlocks_append j _ y _ hblocks]

/-- What FINAL answers once `m` has been appended, on whichever routes, to a state with consistent counters (R134, R140). -/
def State.digestAfter (m : List Byte) (s : State) : Word × Word :=
  if s.length.toNat + m.length < 192 then shortPath (s.buffered ++ m) (lane s.acc 0) (lane s.acc 1)
  else finishBlocks (workingLanes s) (s.buffered ++ m)

/-- The digest depends on the bytes appended only, not on how many of their blocks are absorbed already (R140). -/
theorem Appends.streamDigest_eq {m : List Byte} {s u : State} {k : Nat} (h : Appends m s u k) (hc : s.Consistent)
    (hu : u.Inv) (huc : u.Consistent) : u.streamDigest = s.digestAfter m := by
  obtain ⟨hlen, hrem, hbuf, hlanes, hacc⟩ := h
  rw [State.digestAfter, ← hlen]
  by_cases hshort : u.length.toNat < 192
  · have hnone : k = 0 := by
      have hcount := hc.1 (by omega)
      have hcount' := huc.1 hshort
      omega
    rw [hnone, Nat.mul_zero, List.drop_zero] at hbuf
    rw [State.streamDigest, if_pos hshort, if_pos hshort, ← huc.1 hshort, ← State.buffered, hbuf, hacc hshort]
  · rw [State.streamDigest_eq_finishBlocks hu (by omega), if_neg hshort, ← workingLanes_long (by omega), hlanes, hbuf,
      finishBlocks_drop (by rw [List.length_append, State.buffered_length]; omega)]

/-- One UPDATE of `x ++ y` leaves `t`; UPDATE `x` leaves `u`, and then UPDATE `y` leaves `v`. -/
structure SplitUpdate (x y : List Byte) (s t u v : State) : Prop where
  whole_exec : exec (.update (.present (x ++ y))) s = .next t
  first_exec : exec (.update (.present x)) s = .next u
  second_exec : exec (.update (.present y)) u = .next v
  whole_inv : t.Inv
  parts_inv : v.Inv
  whole_consistent : t.Consistent
  parts_consistent : v.Consistent
  whole : Appends (x ++ y) s t (s.blocksTaken (x ++ y))
  first : Appends x s u (s.blocksTaken x)
  parts : Appends (x ++ y) s v (s.blocksTaken x + u.blocksTaken y)

theorem exists_splitUpdate {x y : List Byte} {s : State} (hs : s.Inv) (hc : s.Consistent)
    (hcap : s.length.toNat + x.length + y.length ≤ 2147483647) : ∃ t u v, SplitUpdate x y s t u v := by
  obtain ⟨t, ht, htinv, htc, htapp⟩ := exec_update_appends hs hc (m := x ++ y) (by rw [List.length_append]; omega)
  obtain ⟨u, hu, huinv, huc, huapp⟩ := exec_update_appends hs hc (m := x) (by omega)
  obtain ⟨v, hv, hvinv, hvc, hvapp⟩ := exec_update_appends huinv huc (m := y) (by rw [huapp.length_eq]; exact hcap)
  exact ⟨t, u, v, ht, hu, hv, htinv, hvinv, htc, hvc, htapp, huapp, huapp.trans hvapp⟩

theorem SplitUpdate.length_eq {x y : List Byte} {s t u v : State} (h : SplitUpdate x y s t u v) :
    t.length = v.length :=
  BitVec.eq_of_toNat_eq (h.whole.length_eq.trans h.parts.length_eq.symm)

/-- Settles O46: both ways append the same bytes, so FINAL answers `State.digestAfter` after either. -/
theorem splitUpdateSameDigest : Obligations.SplitUpdateSameDigest := by
  intro s x y hs hc hcap
  obtain ⟨t, u, v, h⟩ := exists_splitUpdate hs hc hcap
  have hwhole := finalDigest_eq h.whole_inv
  have hparts := finalDigest_eq h.parts_inv
  rw [h.whole.streamDigest_eq hc h.whole_inv h.whole_consistent] at hwhole
  rw [h.parts.streamDigest_eq hc h.parts_inv h.parts_consistent] at hparts
  exact ⟨t, u, v, _, h.whole_exec, h.first_exec, h.second_exec, h.length_eq, respondsOnly_final hwhole,
    respondsOnly_final hparts⟩

/-- Refutes O47: from reset 342 zero bytes at once leave `remainder` 54, but 192 and then 150 leave 150, since the second
part takes the short route (R132 corner case 5; notes/assumptions/19.md). -/
theorem not_splitUpdateSameRemainder : ¬ Obligations.SplitUpdateSameRemainder := by
  intro hsame
  have hinv := resetStateHasInvariant.1
  have hc := resetStateHasInvariant.2.1
  obtain ⟨hlen, hrem⟩ : State.reset.length.toNat = 0 ∧ State.reset.remainder.toNat = 0 := ⟨rfl, rfl⟩
  obtain ⟨x, hx⟩ : ∃ x : List Byte, x.length = 192 := ⟨List.replicate 192 0, List.length_replicate⟩
  obtain ⟨y, hy⟩ : ∃ y : List Byte, y.length = 150 := ⟨List.replicate 150 0, List.length_replicate⟩
  have hcap : State.reset.length.toNat + x.length + y.length ≤ 2147483647 := by omega
  obtain ⟨t, u, v, h⟩ := exists_splitUpdate hinv hc hcap
  have heq := congrArg BitVec.toNat (hsame _ t u v x y hinv hc hcap h.whole_exec h.first_exec h.second_exec)
  have hwhole : t.remainder.toNat = 54 := by
    have hcount := h.whole.remainder_eq
    have hblocks := State.reset.blocksTaken_cases (x ++ y)
    rw [List.length_append] at hcount hblocks
    omega
  have hparts : v.remainder.toNat = 150 := by
    have hcount := h.parts.remainder_eq
    have hfirst := h.first.remainder_eq
    have hblocks := State.reset.blocksTaken_cases x
    have hblocks' := u.blocksTaken_cases y
    rw [List.length_append] at hcount
    omega
  omega

/-- Appending the same bytes with the same number of blocks absorbed leaves the same live bytes and lanes. -/
theorem Appends.live_eq {m : List Byte} {s t v : State} {k : Nat} (ht : Appends m s t k) (hv : Appends m s v k) :
    t.remainder = v.remainder ∧ t.acc = v.acc ∧ t.buffered = v.buffered := by
  have hlen := ht.length_eq.trans hv.length_eq.symm
  have hrem := ht.remainder_eq.trans hv.remainder_eq.symm
  refine ⟨BitVec.eq_of_toNat_eq (by omega), ?_, ht.buffered_eq.trans hv.buffered_eq.symm⟩
  by_cases hshort : v.length.toNat < 192
  · rw [ht.acc_eq (by omega), hv.acc_eq hshort]
  · rw [← workingLanes_long (by omega), ← workingLanes_long (by omega), ht.lanes_eq, hv.lanes_eq]

/-- Appending the same bytes with one more block absorbed is absorbing the block at the front of the buffer. -/
theorem Appends.live_of_succ {m : List Byte} {s t v : State} {k : Nat} (ht : Appends m s t (k + 1))
    (hv : Appends m s v k) (hlong : 192 ≤ v.length.toNat) :
    v.remainder.toNat = t.remainder.toNat + 96 ∧ t.acc = mixBlock v.acc (lanes12 (v.buf.readBytes 0 96)) ∧
      t.buffered = v.buffered.drop 96 := by
  have hlen := ht.length_eq.trans hv.length_eq.symm
  have htrem := ht.remainder_eq
  have hvrem := hv.remainder_eq
  have hfront : v.buffered.take 96 = v.buf.readBytes 0 96 := by
    rw [State.buffered_eq_block_append (by omega), List.take_left' (Memory.readBytes_length ..)]
  refine ⟨by omega, ?_, by rw [ht.buffered_eq, hv.buffered_eq, List.drop_drop, Nat.mul_succ]⟩
  rw [← workingLanes_long (by omega), ← workingLanes_long hlong, ht.lanes_eq, hv.lanes_eq, absorbBlocks_add,
    ← hv.buffered_eq, absorbBlocks, absorbBlocks, hfront]

/-- The two ways absorb the same blocks if everything stays in the buffer or the parts leave less than a block in it. -/
theorem SplitUpdate.blocks_eq {x y : List Byte} {s t u v : State} (h : SplitUpdate x y s t u v)
    (hsame : s.remainder.toNat + x.length + y.length < 192 ∨ v.remainder.toNat < 96) :
    s.blocksTaken (x ++ y) = s.blocksTaken x + u.blocksTaken y := by
  have hwhole := h.whole.remainder_eq
  have hfirst := h.first.remainder_eq
  have hparts := h.parts.remainder_eq
  have hblocks := s.blocksTaken_cases (x ++ y)
  have hblocks' := s.blocksTaken_cases x
  have hblocks'' := u.blocksTaken_cases y
  rw [List.length_append] at hwhole hparts hblocks
  omega

/-- Otherwise the one UPDATE absorbs a block more: it leaves less than a block, the parts leave one and less than two. -/
theorem SplitUpdate.blocks_succ {x y : List Byte} {s t u v : State} (h : SplitUpdate x y s t u v)
    (hfull : 192 ≤ s.remainder.toNat + x.length + y.length) (hblock : 96 ≤ v.remainder.toNat) :
    s.blocksTaken (x ++ y) = s.blocksTaken x + u.blocksTaken y + 1 := by
  have hwhole := h.whole.remainder_eq
  have hparts := h.parts.remainder_eq
  have hblocks := s.blocksTaken_cases (x ++ y)
  obtain ⟨_, hrem, _⟩ := h.parts_inv
  simp only [Config.bufSize] at hrem
  rw [List.length_append] at hwhole hparts hblocks
  omega

/-- Settles O54: the two ways have absorbed the same number of blocks in the first case, and in the other the parts have
absorbed one less. -/
theorem splitUpdateStateCompared : Obligations.SplitUpdateStateCompared := by
  intro s x y hs hc hcap
  obtain ⟨t, u, v, h⟩ := exists_splitUpdate hs hc hcap
  refine ⟨t, u, v, h.whole_exec, h.first_exec, h.second_exec, h.length_eq, ?_⟩
  split
  case isTrue hsame =>
    obtain ⟨hrem, hacc, hbuf⟩ := Appends.live_eq (h.blocks_eq hsame ▸ h.whole) h.parts
    exact ⟨hrem, hacc, fun k hk => State.read_eq_of_buffered_eq hrem hbuf hk⟩
  case isFalse hmore =>
    obtain ⟨hfull, hblock⟩ : 192 ≤ s.remainder.toNat + x.length + y.length ∧ 96 ≤ v.remainder.toNat := by omega
    have hlong : 192 ≤ v.length.toNat := by
      have hlen := h.parts.length_eq
      rw [List.length_append] at hlen
      unfold State.Consistent at hc
      omega
    obtain ⟨hrem, hacc, hbuf⟩ := Appends.live_of_succ (h.blocks_succ hfull hblock ▸ h.whole) h.parts hlong
    refine ⟨hrem, hacc, fun k hk => ?_⟩
    rw [State.read_eq_getD_buffered t hk, hbuf, State.read_eq_getD_buffered v (by omega),
      List.getD_eq_getElem?_getD, List.getElem?_drop, ← List.getD_eq_getElem?_getD]

end Sys2Proof.Machine

/-! PROOFS. 60_exceptions.md: which command is answered with which error (R161 to R164), the order of the checks (R166), and
that a rejected command changes nothing (R165). First the causes of rejection and what they come to, then that every other
command answers OK, then the obligations. -/

namespace Sys2Proof.Machine

open Sys2Proof.SpecForms

/-! ### The causes of rejection -/

/-- The causes for which a command that decodes is rejected, each with its error (R161, R162, R164). IllegalCommand is no
such command's error (R163). -/
inductive Rejects : Instr → State → CommandError → Prop
  | nullInput (len : BitVec 32) (s : State) : Rejects (.update (.absent len)) s .nullInput
  | negativeLen {i : Instr} {len : BitVec 32} (s : State) (h : i.range? = some (.negative len)) :
      Rejects i s .rangeOutOfBounds
  | badImage {im : List Byte} (s : State) (h : ¬ RestoreAccepts im) : Rejects (.restore im) s .rangeOutOfBounds
  | overflow {m : List Byte} {s : State} (h : Config.lenMax < s.length.toNat + m.length) :
      Rejects (.update (.present m)) s .lengthOverflow

/-- A payload a frame can carry is shorter than 2^31 bytes (R65). -/
theorem length_lt_of_wellFormed {m : List Byte} (hw : (ByteRange.present m).wellFormed = true) : m.length < 2 ^ 31 :=
  Nat.lt_succ_of_le (of_decide_eq_true hw)

/-- A command with a cause of rejection is answered with its error, and nothing else changes (R165). -/
theorem Rejects.exec_eq {i : Instr} {s : State} {e : CommandError} (h : Rejects i s e) (hw : i.wellFormed = true) :
    exec i s = .next (s.pushResponse (errorFrame e)) := by
  cases h with
  | nullInput => rfl
  | negativeLen _ hneg => exact negativeLenIsRejected i _ s hneg
  | badImage _ him => exact exec_restore_rejected him s
  | overflow hcap => exact exec_update_overflow (length_lt_of_wellFormed hw) hcap

theorem not_rejects_illegalCommand {i : Instr} {s : State} : ¬ Rejects i s .illegalCommand := nofun

theorem rejects_nullInput_iff {i : Instr} {s : State} :
    Rejects i s .nullInput ↔ ∃ len, i = .update (.absent len) := by
  constructor
  · rintro ⟨⟩
    exact ⟨_, rfl⟩
  · rintro ⟨len, rfl⟩
    exact .nullInput len s

theorem rejects_rangeOutOfBounds_iff {i : Instr} {s : State} :
    Rejects i s .rangeOutOfBounds ↔ (∃ len, i.range? = some (.negative len)) ∨
      ∃ im, i = .restore im ∧ (2 ^ 31 ≤ (le32 im 288).toNat ∨ 192 ≤ (le32 im 292).toNat) := by
  constructor
  · rintro (_ | ⟨_, hneg⟩ | ⟨_, him⟩)
    · exact .inl ⟨_, hneg⟩
    · rw [restoreAccepts_iff, not_and_or, not_lt, not_lt] at him
      exact .inr ⟨_, rfl, him⟩
  · rintro (⟨len, hneg⟩ | ⟨im, rfl, him⟩)
    · exact .negativeLen s hneg
    · refine .badImage s ?_
      rwa [restoreAccepts_iff, not_and_or, not_lt, not_lt]

theorem rejects_lengthOverflow_iff {i : Instr} {s : State} :
    Rejects i s .lengthOverflow ↔ ∃ m, i = .update (.present m) ∧ s.length.toNat + m.length > 2147483647 := by
  constructor
  · rintro (_ | _ | _ | hcap)
    exact ⟨_, rfl, hcap⟩
  · rintro ⟨m, rfl, hcap⟩
    exact .overflow hcap

/-! ### The other commands answer OK -/

/-- If the outcome is a next state, it has one OK response more than `s` (R66). -/
def AnswersOk (s : State) (r : Result) : Prop :=
  ∀ t, r = .next t → ∃ result, t.responses = s.responses ++ [okFrame result]

theorem answersOk_answer {s u : State} (result : List Byte) (hu : u.responses = s.responses) :
    AnswersOk s (answer result u) := by
  rintro _ ⟨⟩
  exact ⟨result, congrArg (· ++ [okFrame result]) hu⟩

theorem answersOk_conclude {s : State} {r : Except CommandError (List Byte)} (h : ∃ result, r = .ok result) :
    AnswersOk s (conclude r s) := by
  obtain ⟨result, rfl⟩ := h
  exact answersOk_answer result rfl

theorem answersOk_withBuffer {α : Type} {s : State} {r : Except Fault α} {k : α → Result}
    (h : ∀ v, r = .ok v → AnswersOk s (k v)) : AnswersOk s (withBuffer r k) := by
  intro t ht
  obtain ⟨v, hv, hk⟩ := withBuffer_next ht
  exact h v hv t hk

/-- A command's work that puts the ports back as they were leaves the responses alone. -/
theorem responses_eq_of_withPorts {s u : State} {r : Except Fault State} (hr : r = .ok u)
    (h : r = r.map (State.withPorts s.inbox s.responses)) : u.responses = s.responses := by
  subst hr
  have hu : u = u.withPorts s.inbox s.responses := Except.ok.inj h
  rw [hu]
  rfl

/-- UPDATE within the cap answers OK, on either route (R132). -/
theorem exec_update_answersOk {m : List Byte} {s : State} (hcap : s.length.toNat + m.length ≤ Config.lenMax) :
    AnswersOk s (exec (.update (.present m)) s) := by
  by_cases hfit : m.length + s.remainder.toNat < Config.bufSize
  · rw [exec_update_short hcap hfit]
    exact answersOk_withBuffer fun u hu =>
      answersOk_answer [] (responses_eq_of_withPorts hu (updateShort_withPorts m s s.inbox s.responses))
  · rw [exec_update_long hcap (Nat.le_of_not_lt hfit)]
    exact answersOk_withBuffer fun u hu =>
      answersOk_answer [] (responses_eq_of_withPorts hu (updateLong_withPorts m s s.inbox s.responses))

/-- A range with no negative `LEN` gives a one-shot command a digest, an absent one too (R115). -/
theorem hash128_ok {range : ByteRange} (hw : range.wellFormed = true) (hneg : ∀ len, range ≠ .negative len)
    (seed1 seed2 : Word) : ∃ d, hash128 range seed1 seed2 = .ok d := by
  cases range with
  | absent len => exact ⟨_, hash128_absent len seed1 seed2⟩
  | present m => exact ⟨_, hash128_present (length_lt_of_wellFormed hw) seed1 seed2⟩
  | negative len => exact absurd rfl (hneg len)

/-- A present range with no negative `LEN` gives SHORT and LONG a digest (R62, R111, R113). -/
theorem runPath_ok (path : List Byte → Word → Word → Word × Word) {range : ByteRange}
    (hw : (range.isPresent && range.wellFormed) = true) (hneg : ∀ len, range ≠ .negative len) (seed1 seed2 : Word) :
    ∃ result, runPath path range seed1 seed2 = .ok result := by
  obtain ⟨hpresent, hw⟩ := Bool.and_eq_true_iff.mp hw
  cases range with
  | absent len => cases hpresent
  | present m => exact ⟨_, runPath_present path (length_lt_of_wellFormed hw) seed1 seed2⟩
  | negative len => exact absurd rfl (hneg len)

/-- A well-formed command with no cause of rejection answers OK if it completes (R161 to R164). -/
theorem exec_answersOk {i : Instr} {s : State} (hw : i.wellFormed = true) (hok : ∀ e, ¬ Rejects i s e) :
    AnswersOk s (exec i s) := by
  have hneg : ∀ range, i.range? = some range → ∀ len, range ≠ .negative len := fun range hrange len hlen =>
    hok _ (.negativeLen s (hlen ▸ hrange))
  cases i with
  | init | mixblock | endpartial | endMix | shortmix | shortend => exact answersOk_answer _ rfl
  | update range =>
    cases range with
    | absent len => exact absurd (.nullInput len s) (hok _)
    | negative len => exact absurd rfl (hneg _ rfl len)
    | present m => exact exec_update_answersOk (Nat.le_of_not_lt fun hcap => hok _ (.overflow hcap))
  | final => exact answersOk_withBuffer fun d _ => answersOk_answer (bytesOfDigest d) rfl
  | save =>
    rw [exec_save]
    exact answersOk_answer (u := s) _ rfl
  | restore im =>
    have haccept : RestoreAccepts im := not_not.mp fun h => hok _ (.badImage s h)
    rw [exec_restore_accepted haccept]
    exact answersOk_answer (u := s.restored im) [] rfl
  | hash128 range seed1 seed2 =>
    obtain ⟨d, hd⟩ := hash128_ok hw (hneg _ rfl) seed1 seed2
    exact answersOk_conclude ⟨_, congrArg (Except.map bytesOfDigest) hd⟩
  | hash64 range seed =>
    obtain ⟨d, hd⟩ := hash128_ok hw (hneg _ rfl) seed seed
    exact answersOk_conclude ⟨_, congrArg (fun r => (r.map Prod.fst).map bytesOf64) hd⟩
  | hash32 range seed =>
    obtain ⟨d, hd⟩ := hash128_ok hw (hneg _ rfl) seed seed
    exact answersOk_conclude
      ⟨_, congrArg (fun r => ((r.map Prod.fst).map fun v => v.extractLsb' 0 32).map bytesOf32) hd⟩
  | short range seed1 seed2 => exact answersOk_conclude (runPath_ok shortPath hw (hneg _ rfl) seed1 seed2)
  | long range seed1 seed2 => exact answersOk_conclude (runPath_ok longPath hw (hneg _ rfl) seed1 seed2)

/-! ### The response frames -/

/-- An error's response is its status and three zero bytes (R66). -/
theorem errorFrame_eq (e : CommandError) : errorFrame e = [e.status, 0, 0, 0] := by
  cases e <;> decide

theorem CommandError.status_injective : Function.Injective CommandError.status := by
  intro e e'
  cases e <;> cases e' <;> simp [CommandError.status]

theorem CommandError.status_ne_ok (e : CommandError) : e.status ≠ 0 := by
  cases e <;> decide

theorem CommandError.status_le_four (e : CommandError) : e.status.toNat ≤ 4 := by
  cases e <;> decide

theorem errorFrame_inj {e e' : CommandError} : errorFrame e = errorFrame e' ↔ e = e' := by
  rw [errorFrame_eq, errorFrame_eq, List.cons.injEq, and_iff_left rfl, CommandError.status_injective.eq_iff]

/-- No OK response is an error's: their status bytes differ (R160). -/
theorem okFrame_ne_errorFrame (result : List Byte) (e : CommandError) : okFrame result ≠ errorFrame e := by
  intro h
  rw [errorFrame_eq] at h
  exact e.status_ne_ok (List.cons.inj h).1.symm

/-- From a state with the invariant a well-formed command is answered with an error exactly if it has that error's cause,
and OK if it has none. -/
theorem exec_response_cases {s : State} {i : Instr} (hs : s.Inv) (hw : i.wellFormed = true) :
    ∃ t r, exec i s = .next t ∧ t.responses = s.responses ++ [r] ∧ (∀ e, r = errorFrame e ↔ Rejects i s e) ∧
      ((∃ result, r = okFrame result) ∨ ∃ e, Rejects i s e) := by
  by_cases hrej : ∃ e, Rejects i s e
  · obtain ⟨e, hcause⟩ := hrej
    refine ⟨_, errorFrame e, hcause.exec_eq hw, rfl, fun e' => ?_, .inr ⟨e, hcause⟩⟩
    refine ⟨fun heq => errorFrame_inj.mp heq ▸ hcause, fun hcause' => ?_⟩
    have hnext := Host.Outcome.next.inj ((hcause.exec_eq hw).symm.trans (hcause'.exec_eq hw))
    simpa using congrArg State.responses hnext
  · have hok := not_exists.mp hrej
    obtain ⟨t, ht⟩ := exec_completes hs i
    obtain ⟨result, hresult⟩ := exec_answersOk hw hok t ht
    exact ⟨t, okFrame result, ht, hresult,
      fun e => ⟨fun heq => absurd heq (okFrame_ne_errorFrame result e), fun hcause => absurd hcause (hok e)⟩,
      .inl ⟨result, rfl⟩⟩

/-- Settles O50: `exec_response_cases`, each error's causes read off by its `rejects_…_iff`. -/
theorem eachErrorHasItsCause : Obligations.EachErrorHasItsCause := by
  intro s i hs hw
  obtain ⟨t, r, ht, hr, hcause, hform⟩ := exec_response_cases hs hw
  have hnull := hcause .nullInput
  have hrange := hcause .rangeOutOfBounds
  have hover := hcause .lengthOverflow
  rw [errorFrame_eq] at hnull hrange hover
  refine ⟨t, r, ht, hr, hnull.trans rejects_nullInput_iff, hrange.trans rejects_rangeOutOfBounds_iff,
    hover.trans rejects_lengthOverflow_iff, ?_⟩
  rcases hform with ⟨result, rfl⟩ | ⟨e, he⟩
  · exact .inl ⟨result, rfl⟩
  · cases e with
    | nullInput => exact .inr (.inl (hnull.mpr he))
    | rangeOutOfBounds => exact .inr (.inr (.inl (hrange.mpr he)))
    | lengthOverflow => exact .inr (.inr (.inr (hover.mpr he)))
    | illegalCommand => exact absurd he not_rejects_illegalCommand

/-! ### Rejected frames -/

/-- A frame that decodes to a command with a cause of rejection is answered with its error, and nothing else changes but
that the input is taken (R165). -/
theorem step_of_rejects {s : State} {f : Frame} {rest : List Input} {i : Instr} {e : CommandError}
    (hin : s.inbox = .command f :: rest) (hdecode : decode f = .ok i) (h : Rejects i (s.setInbox rest) e) :
    step s = .next { s with inbox := rest, responses := s.responses ++ [[e.status, 0, 0, 0]] } := by
  rw [step_command hin, hdecode, ← errorFrame_eq]
  exact h.exec_eq (encodeOfDecode f i hdecode).1

/-- `step_of_rejects` for the command a row builds from its frame. -/
theorem step_of_rejects_build {s : State} {o : Opcode} {f : Frame} {rest : List Input} {e : CommandError}
    (hin : s.inbox = .command f :: rest) (hframe : IsFrameOf o f)
    (h : Rejects (build o (headerP (header f)) f) (s.setInbox rest) e) :
    step s = .next { s with inbox := rest, responses := s.responses ++ [[e.status, 0, 0, 0]] } :=
  step_of_rejects hin (decode_eq_ok_iff.mpr ⟨o, hframe, rfl⟩) h

theorem rangeField_absent {o : Opcode} {f : Frame} (hp : headerP (header f) = false) :
    rangeField o (headerP (header f)) f = .absent (lenField o f) := by
  rw [hp]
  rfl

theorem rangeField_negative {o : Opcode} {f : Frame} (hp : headerP (header f) = true)
    (hneg : 2 ^ 31 ≤ (lenField o f).toNat) :
    rangeField o (headerP (header f)) f = .negative (lenField o f) := by
  rw [hp]
  exact if_pos ((msb_eq_true_iff_two_pow_le _).mpr hneg)

/-- A legal `LEN` is the length of the payload the frame carries (R62, R67 step 6). -/
theorem rangeField_present {o : Opcode} {f : Frame} (hframe : IsFrameOf o f) (hcarries : o.format.carriesRange = true)
    (hp : headerP (header f) = true) (hlegal : (lenField o f).toNat < 2 ^ 31) :
    ∃ m, rangeField o (headerP (header f)) f = .present m ∧ m.length = (lenField o f).toNat := by
  rcases rangeField_cases hframe hcarries with ⟨hp', _⟩ | ⟨_, _, hneg⟩ | ⟨_, hrange, hlen, _⟩
  · cases hp.symm.trans hp'
  · exact absurd ((msb_eq_true_iff_two_pow_le _).mp hneg) (Nat.not_le_of_lt hlegal)
  · exact ⟨_, hrange, hlen⟩

theorem le32_drop (b : List Byte) (p off : Nat) : le32 (b.drop p) off = le32 b (p + off) := by
  rw [le32, le32, List.drop_drop]

/-- Settles O51, by the checks of R166: no row, then for a frame of a row the cause each clause gives the row's command. -/
theorem errorPriority : Obligations.ErrorPriority := by
  intro s f rest hin
  refine ⟨framesOutsideTheTableAreIllegal s f rest hin, fun hframe hp => ?_, fun o hframe hcarries hp hneg => ?_,
    fun hframe hbad => ?_, fun hframe hp hlegal hcap => ?_⟩
  · refine step_of_rejects_build hin hframe (e := .nullInput) ?_
    exact rejects_nullInput_iff.mpr ⟨_, congrArg Instr.update (rangeField_absent hp)⟩
  · refine step_of_rejects_build hin hframe (e := .rangeOutOfBounds) ?_
    obtain ⟨_, _, hfixed, _⟩ := id hframe
    obtain ⟨hrange, _⟩ := operandBytes_build_of_range hfixed hcarries (headerP (header f))
    exact .negativeLen _ (hrange.trans (congrArg some (rangeField_negative hp hneg)))
  · refine step_of_rejects_build hin hframe (e := .rangeOutOfBounds) ?_
    refine rejects_rangeOutOfBounds_iff.mpr (.inr ⟨f.drop 4, rfl, ?_⟩)
    rwa [le32_drop, le32_drop]
  · refine step_of_rejects_build hin hframe (e := .lengthOverflow) ?_
    obtain ⟨m, hrange, hlen⟩ := rangeField_present hframe rfl hp hlegal
    exact rejects_lengthOverflow_iff.mpr ⟨m, congrArg Instr.update hrange, by rw [hlen]; exact hcap⟩

/-- A step on a frame that completes is an error's response and nothing else, or an OK response: a frame that does not
decode and a command with a cause of rejection are answered their error, any other command OK (R163, R165). -/
theorem step_command_cases {s : State} {f : Frame} {rest : List Input} (hin : s.inbox = .command f :: rest) :
    (∃ e : CommandError,
      step s = .next { s with inbox := rest, responses := s.responses ++ [[e.status, 0, 0, 0]] }) ∨
    AnswersOk s (step s) := by
  cases hdecode : decode f with
  | error _ =>
    refine .inl ⟨.illegalCommand, ?_⟩
    rw [step_command hin, hdecode, ← errorFrame_eq]
    exact raise_eq .illegalCommand (s.setInbox rest)
  | ok i =>
    by_cases hrej : ∃ e, Rejects i (s.setInbox rest) e
    · obtain ⟨e, hcause⟩ := hrej
      exact .inl ⟨e, step_of_rejects hin hdecode hcause⟩
    · rw [step_command hin, hdecode]
      exact .inr (exec_answersOk (s := s.setInbox rest) (encodeOfDecode f i hdecode).1 (not_exists.mp hrej))

/-- Settles O52, by the two kinds of response (`step_command_cases`). -/
theorem rejectedFrameChangesNothing : Obligations.RejectedFrameChangesNothing := by
  intro s t f rest hin hstep
  rcases step_command_cases hin with ⟨e, herror⟩ | hok
  · obtain rfl := Host.Outcome.next.inj (hstep.symm.trans herror)
    exact ⟨e.status, [], rfl, e.status_le_four, fun _ => ⟨rfl, rfl⟩⟩
  · obtain ⟨result, hresult⟩ := hok t hstep
    exact ⟨0, result, hresult, Nat.zero_le _, fun h => absurd rfl h⟩

end Sys2Proof.Machine

/-! PROOFS. 70_reset_and_hazards.md section 1: what a reset leaves (R180, R181), and FINAL straight after one (R182). A reset
is read as the draw's cells taking the place of the block's, then INIT with (SC, SC); so a reset begins the empty stream. -/

namespace Sys2Proof.Machine

open Sys2Proof.SpecForms

/-! ### The state a reset leaves -/

/-- The block with the draw's values in its accumulators and its buffer. -/
def State.drawn (draw : ResetDraw) (s : State) : State :=
  (s.setAcc draw.acc).setBuf (Memory.writeBytes [] 0 (draw.buf.take Config.bufSize))

/-- A reset writes over the drawn cells what INIT with (SC, SC) writes (R34, R131). -/
theorem State.afterReset_eq_begun (draw : ResetDraw) (s : State) :
    s.afterReset draw = (s.drawn draw).begun Config.sc Config.sc := rfl

/-- A reset begins the empty stream with seeds (SC, SC) (R182). -/
theorem State.afterReset_absorbed (draw : ResetDraw) (s : State) :
    Absorbed Config.sc Config.sc [] (s.afterReset draw) :=
  (s.drawn draw).begun_absorbed Config.sc Config.sc

/-- From `s[2]` on INIT leaves the accumulators alone (R131). -/
theorem State.begun_lane_of_two_le (seed1 seed2 : Word) (s : State) {i : Fin 12} (hi : 2 ≤ i.val) :
    lane (s.begun seed1 seed2).acc i = lane s.acc i := by
  have h0 : (0 : Fin 12) ≠ i := fun h => absurd (h ▸ hi) (by decide)
  have h1 : (1 : Fin 12) ≠ i := fun h => absurd (h ▸ hi) (by decide)
  exact (lane_setLane_other _ seed2 h1).trans (lane_setLane_other _ seed1 h0)

/-- Every cell of the buffer is the draw's (R34). -/
theorem State.afterReset_read {draw : ResetDraw} (hdraw : draw.buf.length = 192) (s : State) {k : Nat} (hk : k < 192) :
    (s.afterReset draw).buf.read k = draw.buf.getD k 0 := by
  have hall : draw.buf.take Config.bufSize = draw.buf := List.take_of_length_le (Nat.le_of_eq hdraw)
  rw [State.afterReset_buf, hall, Memory.read_writeBytes Memory.nil_wf.1, dif_pos (by omega), List.getD_eq_getElem]
  rfl

/-! ### The steps -/

/-- A step that takes a reset leaves the reset state of the state with that input taken (R180). -/
theorem step_reset {s : State} {draw : ResetDraw} {rest : List Input} (h : s.inbox = .reset draw :: rest) :
    step s = .next ((s.setInbox rest).afterReset draw) := by
  simp only [step, takeInput, h]

/-- Settles O10: what INIT with (SC, SC) leaves of the drawn cells, and the buffer read cell by cell. -/
theorem resetEventLeavesResetValues : Obligations.ResetEventLeavesResetValues := by
  intro s draw rest hin hdraw
  have hstep := step_reset hin
  rw [State.afterReset_eq_begun] at hstep
  exact ⟨_, hstep, rfl, rfl, State.begun_seed1 .., State.begun_seed2 ..,
    fun _ hi => State.begun_lane_of_two_le _ _ _ hi, fun _ hk => State.afterReset_read hdraw (s.setInbox rest) hk,
    rfl, rfl⟩

/-- The digest of the empty message with seeds (SC, SC) (R182). -/
theorem digest_nil_sc : digest [] Config.sc Config.sc = (0x696695F3118DAB5A, 0x86F33ACECB67EBE0) := by
  decide

/-- From a state that stands for the empty stream with seeds (SC, SC) FINAL answers its digest (R134, R182). -/
theorem respondsOnly_final_of_empty {s : State} (hs : s.Inv) (h : Absorbed Config.sc Config.sc [] s) :
    RespondsOnly .final s [0, 0, 0, 0, 0x5A, 0xAB, 0x8D, 0x11, 0xF3, 0x95, 0x66, 0x69,
      0xE0, 0xEB, 0x67, 0xCB, 0xCE, 0x3A, 0xF3, 0x86] := by
  have hframe : okResponse (bytesOfDigest (0x696695F3118DAB5A, 0x86F33ACECB67EBE0)) =
      [0, 0, 0, 0, 0x5A, 0xAB, 0x8D, 0x11, 0xF3, 0x95, 0x66, 0x69, 0xE0, 0xEB, 0x67, 0xCB, 0xCE, 0x3A, 0xF3, 0x86] := by
    decide
  rw [← hframe, ← digest_nil_sc]
  exact finalDigestsTheStream s Config.sc Config.sc [] hs h

/-- Settles O11: the reset begins the empty stream, whose digest FINAL answers. -/
theorem finalStraightAfterReset : Obligations.FinalStraightAfterReset := by
  intro s draw rest hin
  have hdecode : decode [0x03, 0, 0, 0] = .ok .final := decode_eq_of_encode_eq rfl (by decide)
  refine ⟨_, _, step_reset hin, ?_, rfl⟩
  rw [step_command rfl, hdecode]
  exact respondsOnly_final_of_empty (State.afterReset_inv draw (s.setInbox rest))
    ((s.setInbox rest).afterReset_absorbed draw)

end Sys2Proof.Machine

/-! PROOFS. The two statements that only name facts proved above: a step on a frame that decodes (30_encoding.md R60, R67)
and equality of canonical buffers (notes/assumptions/6.md). -/

namespace Sys2Proof.Machine

/-- Settles O18: a canonical buffer lists exactly the cells that do not read as unlisted, in rising order. -/
theorem canonicalBuffersAreEqual : Obligations.CanonicalBuffersAreEqual :=
  fun _ _ hm hm' hread => Memory.eq_of_read_eq hm hm' hread

/-- Settles O5: the step takes the frame, and `runFrame` on a frame that decodes is `exec` of its command. That the
command is well-formed is not needed: `step` does not look at it. -/
theorem stepRunsDecodedCommand : Obligations.StepRunsDecodedCommand := by
  intro s f rest i hin hdecode _
  calc step s = runFrame (decode f) exec (s.setInbox rest) := step_command hin
    _ = runFrame (.ok i) exec (s.setInbox rest) := by rw [hdecode]
    _ = exec i { s with inbox := rest } := rfl

end Sys2Proof.Machine
